-- ==== Sys2Proof/Word.lean ====
section
/-! DEFINITION. The two data types of the FRCE: the 32-bit unsigned word and the byte (spec 40_word_alu.md R140, 00_scope.md R9, R11). -/

namespace Sys2Proof

/-- A word: 32 bits, unsigned, arithmetic modulo 2^32 (R140). -/
abbrev Word := BitVec 32

/-- A byte (R11). -/
abbrev Byte := BitVec 8

end Sys2Proof
end

