-- ==== Sys2Proof/Machine/Alu.lean ====
section
/-! DEFINITION. The 32-bit word ALU (40_word_alu.md R143 to R151). No operation writes a flag or raises an exception (R150). -/

namespace Sys2Proof.Machine

/-- `a +32 b` (R143). -/
abbrev add32 (a b : Word) : Word := a + b

/-- `a -32 b` (R144). -/
abbrev sub32 (a b : Word) : Word := a - b

/-- `a *32 b` (R145). -/
abbrev mul32 (a b : Word) : Word := a * b

/-- `a ^ b` (R146). -/
abbrev xor32 (a b : Word) : Word := a ^^^ b

/-- `low5(n) = n mod 32` (R147). -/
def low5 (n : Nat) : Nat := n % 32

/-- `rotl32(a, n)`: the amount is reduced modulo 32 first (R147). -/
def rotl32 (a : Word) (n : Nat) : Word := a.rotateLeft (low5 n)

/-- `rotr32(a, n) := rotl32(a, 32 - low5(n))` (R148). -/
def rotr32 (a : Word) (n : Nat) : Word := rotl32 a (32 - low5 n)

/-- `fmix(x) := rotl32(x *32 ((2*x + 1) mod 2^32), 5)` (R149). -/
def fmix (x : Word) : Word := rotl32 (mul32 x (add32 (mul32 2 x) 1)) 5

end Sys2Proof.Machine
end

