-- ==== Sys2Proof/Machine/Codec.lean ====
section
/-! DEFINITION. The little-endian word codec (20_memory.md R84; 40_word_alu.md R141, R142, R152). -/

namespace Sys2Proof.Machine

/-- The word of four bytes in index order: `b0 + 256*b1 + 65536*b2 + 16777216*b3` (R84). -/
def packWord (b0 b1 b2 b3 : Byte) : Word :=
  BitVec.ofNat 32 (b0.toNat + 256 * b1.toNat + 65536 * b2.toNat + 16777216 * b3.toNat)

/-- Byte `m` of a word, `v[8m+7 : 8m]` (R84). -/
def byteOf (v : Word) (m : Nat) : Byte := v.extractLsb' (8 * m) 8

/-- `bytes4(v) = v[7:0], v[15:8], v[23:16], v[31:24]` (R142). -/
def bytes4 (v : Word) : List Byte := [byteOf v 0, byteOf v 1, byteOf v 2, byteOf v 3]

/-- `bytesToWords`: a trailing group of 1 to 3 bytes has zero for its missing high bytes (R141). -/
def bytesToWords : List Byte → List Word
  | [] => []
  | [b0] => [packWord b0 0 0 0]
  | [b0, b1] => [packWord b0 b1 0 0]
  | [b0, b1, b2] => [packWord b0 b1 b2 0]
  | b0 :: b1 :: b2 :: b3 :: rest => packWord b0 b1 b2 b3 :: bytesToWords rest

/-- `wordsToBytes`: exactly four bytes a word (R142). -/
def wordsToBytes (ws : List Word) : List Byte := ws.flatMap bytes4

end Sys2Proof.Machine
end

