-- ==== Sys2Proof/Machine/Hidden.lean ====
section
/-! DEFINITION. The working registers of the engine that no host access reaches (10_state.md R53 to R57). -/

namespace Sys2Proof.Machine

/-- The phase of the sequencer: the loops of R282 and the pipeline phases of R199. -/
inductive Phase where
  | betweenCommands | keyMixing | split | preWhitening | rounds | postWhitening | serialise
deriving DecidableEq, Repr, Inhabited

/-- The hidden working registers. They hold unspecified values between commands (R53 to R56); a command
runs on local copies of them within its one completion step, as R59 allows. -/
structure Hidden where
  /-- Key word file (R53). -/
  L : List Word
  /-- Chaining register CHAIN (R54, R244). -/
  chain : List Byte
  /-- Block datapath registers and round temporaries (R55). -/
  A : Word
  B : Word
  C : Word
  D : Word
  tt : Word
  uu : Word
  /-- Key-schedule accumulators, cursors and step counter (R56). -/
  KA : Word
  KB : Word
  i : Nat
  j : Nat
  steps : Nat
  /-- Sequencer (R57). -/
  phase : Phase
  round : Nat
  block : Nat
deriving DecidableEq, Repr, Inhabited

/-- The value the model names for the hidden registers at reset, where the spec gives none (DESIGN CHOICE, unsafe, log 7). -/
def Hidden.atReset : Hidden :=
  { L := [], chain := [], A := 0, B := 0, C := 0, D := 0, tt := 0, uu := 0, KA := 0, KB := 0,
    i := 0, j := 0, steps := 0, phase := .betweenCommands, round := 0, block := 0 }

end Sys2Proof.Machine
end

