-- ==== Sys2Proof/Config.lean ====
section
/-! DEFINITION. What an implementation fixes (00_scope.md R7, 41_key_schedule.md R179) and the free values the spec leaves open
(93_implementation_defined.md U1 to U7). -/

namespace Sys2Proof

/-- The implementation parameters of R7, U10 and U20. Every one is an argument of the model: State carries them. -/
structure Params where
  /-- BASE, the bus address of register offset 0 (R7, R89). -/
  base : Nat
  /-- R_MAX, the largest round count. -/
  rMax : Nat
  /-- KEY_MAX_BYTES, the key buffer's size. -/
  keyMaxBytes : Nat
  /-- N_BUF, the input buffer's size. -/
  nBuf : Nat
deriving DecidableEq, Repr

/-- N_OUT = N_BUF + 16 (R7). -/
def Params.nOut (p : Params) : Nat := p.nBuf + 16

/-- T_MAX = 2*(R_MAX+2) (R7). -/
def Params.tMax (p : Params) : Nat := 2 * (p.rMax + 2)

/-- C_MAX = max(1, KEY_MAX_BYTES/4) (R7). -/
def Params.cMax (p : Params) : Nat := max 1 (p.keyMaxBytes / 4)

/-- The legal ranges of R7; BASE may be any address. -/
abbrev Params.Legal (p : Params) : Prop :=
  (1 ≤ p.rMax ∧ p.rMax ≤ 255) ∧
  (p.keyMaxBytes % 4 = 0 ∧ 4 ≤ p.keyMaxBytes ∧ p.keyMaxBytes ≤ 256) ∧
  (p.nBuf % 16 = 0 ∧ 16 ≤ p.nBuf ∧ p.nBuf ≤ 8176)

/-- BASE of the platform: the spec leaves it OPEN, with no default, and names no value it may not have (R7, R89, U10; log 2). -/
opaque Config.base : Nat

/-- The configuration FRCE-RC32/128: the defaults of R7. -/
def Params.frceRc32x128 : Params := { base := Config.base, rMax := 255, keyMaxBytes := 256, nBuf := 4096 }

/-- BLK, the block size in bytes (R7). -/
abbrev Config.blk : Nat := 16

/-- MAGIC_P (R179; the spec marks the value as general knowledge, log 16). -/
def Config.magicP : Word := 0xB7E15163

/-- MAGIC_Q (R179; the spec marks the value as general knowledge, log 16). -/
def Config.magicQ : Word := 0x9E3779B9

/-- The engine's byte buffers (20_memory.md R80). -/
inductive BufId where
  | keybuf | inbuf | outbuf
deriving DecidableEq, Repr

/-- Free value: the byte at an index of a buffer that the host has not written since reset number `epoch`,
fixed until the host writes it (U3, R332; log 5). -/
opaque Config.unwrittenByte (buf : BufId) (epoch index : Nat) : Byte

/-- Free value: the word that an unspecified host read returns, drawn at each read (U1, U2, U4, R274; log 6). -/
opaque Config.freeWord (draw : Nat) : Word

/-- Free value: a word of the schedule file that no KEY_EXPAND has written since reset number `epoch` (U6, U7, R52; log 13). -/
opaque Config.unwrittenSchedWord (epoch index : Nat) : Word

/-- Free value: the hidden working registers after a completion or a reset (R53 to R57, U6; log 7). -/
opaque Config.freeHidden (draw : Nat) : Machine.Hidden

end Sys2Proof
end

