-- ==== Sys2Proof/Machine/State.lean ====
section
/-! DEFINITION. The machine state (10_state.md R60, with the hidden registers of R53 to R57 and the model's own fields), the reasons a
step can stop, and the state after reset (70_reset_and_hazards.md R330, R331). -/

namespace Sys2Proof.Machine

/-- A byte buffer: (index, byte) pairs with strictly rising indices. An unlisted index holds no value the model
knows (R332). -/
abbrev Memory := List Host.Cell

/-- The command latch: the accepted word, and CTRL.KEYCHK sampled at accept (R58, R281). The other sampled inputs are
the registers and buffers themselves, which R273 freezes while busy (DEDUCED, log 8). -/
structure Latch where
  word : Word
  keychk : Bool
deriving DecidableEq, Repr

/-- The host's moves on the register space (45_command_control.md R284). An offset is relative to BASE (R89). -/
inductive HostMove where
  /-- A write of a 32-bit word. -/
  | write (off : Nat) (v : Word)
  /-- A read of a 32-bit word. -/
  | read (off : Nat)
  /-- The hardware reset input (R330). -/
  | reset
deriving DecidableEq, Repr

/-- What the host does on the platform's bus: an access at a bus address, or the reset input (20_memory.md R89). -/
inductive BusMove where
  /-- A write of a 32-bit word. -/
  | write (addr : Nat) (v : Word)
  /-- A read of a 32-bit word. -/
  | read (addr : Nat)
  /-- The hardware reset input (R330). -/
  | reset
deriving DecidableEq, Repr

/-- One entry of the order of events still to come (60_exceptions.md R308; DESIGN CHOICE, safe, log 3). -/
inductive Event where
  /-- The host makes a move. -/
  | host (m : BusMove)
  /-- The engine has its turn. -/
  | engine
  /-- The host polls STATUS until BUSY reads 0 (WAIT of R120; log 4). -/
  | wait
deriving DecidableEq, Repr

/-- The state of R60, the hidden registers of R53 to R57, and the model's own fields. -/
structure State where
  /-- The implementation parameters (R7); no step changes them. -/
  cfg : Params
  /-- CTRL.IE (R34). -/
  ie : Bool
  /-- CTRL.KEYCHK (R34). -/
  keychk : Bool
  /-- STATUS.BUSY (R35). -/
  busy : Bool
  /-- STATUS.DONE (R35). -/
  done : Bool
  /-- STATUS.KEY_VALID (R35). -/
  keyValid : Bool
  /-- STATUS.BUSY_WR (R35). -/
  busyWr : Bool
  /-- ERR_CODE.CODE (R38). -/
  errCode : BitVec 4
  /-- ROUNDS.R (R37). -/
  rounds : BitVec 8
  /-- KEY_LEN.N (R39). -/
  keyLen : BitVec 16
  /-- IV_LEN.N (R40). -/
  ivLen : BitVec 8
  /-- IN_LEN.N (R41). -/
  inLen : BitVec 16
  /-- OUT_LEN.N (R42). -/
  outLen : BitVec 16
  /-- KS_ROUNDS.R (R43). -/
  ksRounds : BitVec 8
  /-- IV0 to IV3 (R44). -/
  iv0 : Word
  iv1 : Word
  iv2 : Word
  iv3 : Word
  /-- KEYBUF (R45). -/
  keybuf : Memory
  /-- INBUF (R46). -/
  inbuf : Memory
  /-- OUTBUF (R47). -/
  outbuf : Memory
  /-- The schedule file S (R52): the words of the held schedule. -/
  sched : List Word
  /-- The latched command, if one runs (R58, R60). -/
  pending : Option Latch
  /-- The hidden working registers (R53 to R57; log 7). -/
  hidden : Hidden
  /-- The model's own: the events still to come (log 3). -/
  script : List Event
  /-- The model's own: the word the last host read returned (log 9). -/
  rdata : Word
  /-- The model's own: the counter of free values drawn so far (log 6). -/
  draws : Nat
  /-- The model's own: the number of resets so far (log 5). -/
  epoch : Nat
deriving DecidableEq, Repr

/-- Why the machine stops. No command raises one (60_exceptions.md R300). -/
inductive Fault where
  /-- A host access at a bus address below BASE, which has no offset in the FRCE's register space and belongs to something else
  on the platform (20_memory.md R89). Raised by a host event only. Safe: the model says nothing of such an access (log 10). -/
  | addressBelowBase
deriving DecidableEq, Repr

/-- Why the model gives no next state. -/
inductive Refusal where
  /-- An instruction without a meaning yet, by its mnemonic. Raised by `exec`'s refused arms only. Safe. -/
  | notModelled (mnemonic : String)
  /-- A host access at an offset that is not a multiple of 4, outside the interface (20_memory.md R81, U11). Raised by a host
  move only. Safe (log 10). -/
  | unalignedHostAccess
deriving DecidableEq, Repr

/-- The machine right after reset (R330, R331): every register 0 but ROUNDS = 20, no command pending, no byte of a
buffer and no schedule word with a known value (R332). The hidden registers and the model's own fields have the values
of log 3, 5, 6, 7 and 9. -/
def State.reset : State :=
  { cfg := Params.frceRc32x128
    ie := false, keychk := false
    busy := false, done := false, keyValid := false, busyWr := false
    errCode := 0, rounds := 20, keyLen := 0, ivLen := 0, inLen := 0, outLen := 0, ksRounds := 0
    iv0 := 0, iv1 := 0, iv2 := 0, iv3 := 0
    keybuf := [], inbuf := [], outbuf := [], sched := []
    pending := none
    hidden := Hidden.atReset
    script := [], rdata := 0, draws := 0, epoch := 0 }

end Sys2Proof.Machine
end

