-- ==== Sys2Proof/Syntax.lean ====
section
/-! DEFINITION. The commands of the FRCE: one constructor for each row of spec/opcode_table.json (30_encoding.md R111, R112, R113). -/

namespace Sys2Proof

/-- A decoded command word (R116). No command has an operand field (R110). The three ILLEGAL rows of
the opcode table carry the bits their row leaves free, so that a decoded command determines its word. -/
inductive Instr where
  /-- OP 0x0 (R278). -/
  | nop
  /-- OP 0x1 (R170). -/
  | keyExpand
  /-- OP 0x2 (R245). -/
  | encEcb
  /-- OP 0x3 (R246). -/
  | decEcb
  /-- OP 0x4 (R247). -/
  | encCbc
  /-- OP 0x5 (R248). -/
  | decCbc
  /-- OP 0x6 (R196). -/
  | encBlock
  /-- OP 0x7 (R197). -/
  | decBlock
  /-- OP 0x8 (R224). -/
  | pad
  /-- OP 0x9 (R225). -/
  | unpad
  /-- The reserved opcodes 0xA and 0xB (R113); `low` is bit 0 of the word. -/
  | illegalAB (low : BitVec 1)
  /-- The reserved opcodes 0xC to 0xF (R113); `low` is bits 1:0 of the word. -/
  | illegalCF (low : BitVec 2)
  /-- A word with RSV not 0 (R112): its bits 31:4 and 3:0. -/
  | illegalRsv (rsv : BitVec 28) (op : BitVec 4)
deriving DecidableEq, Repr

/-- The commands a legal word selects (R111); the three illegal rows are none. -/
def Instr.isCommand : Instr → Bool
  | .nop | .keyExpand | .encEcb | .decEcb | .encCbc | .decCbc | .encBlock | .decBlock | .pad | .unpad => true
  | .illegalAB _ | .illegalCF _ | .illegalRsv _ _ => false

/-- The data commands: opcodes 0x2 to 0x9, which read INBUF and write OUTBUF (R111). -/
def Instr.isData : Instr → Bool
  | .encEcb | .decEcb | .encCbc | .decCbc | .encBlock | .decBlock | .pad | .unpad => true
  | .nop | .keyExpand | .illegalAB _ | .illegalCF _ | .illegalRsv _ _ => false

/-- The cipher commands: opcodes 0x2 to 0x7, which need a held key schedule (R111). -/
def Instr.isCipher : Instr → Bool
  | .encEcb | .decEcb | .encCbc | .decCbc | .encBlock | .decBlock => true
  | .nop | .keyExpand | .pad | .unpad | .illegalAB _ | .illegalCF _ | .illegalRsv _ _ => false

end Sys2Proof
end

