-- ==== Sys2Proof/Machine/Ops.lean ====
section
/-! DEFINITION. The named operations over buffers and registers: reading and writing bytes, accepting a command, its two
completions (success, and taking an error), returning from an error, and reset (20_memory.md, 45_command_control.md, 60_exceptions.md,
70_reset_and_hazards.md). -/

namespace Sys2Proof.Machine

/-! Buffers. -/

/-- The byte at an index, where one is known. -/
def Memory.read : Memory → Nat → Option Byte
  | [], _ => none
  | (i, b) :: rest, a => if a = i then some b else Memory.read rest a

/-- Set the byte at an index, keeping the indices strictly rising. -/
def Memory.write : Memory → Nat → Byte → Memory
  | [], a, v => [(a, v)]
  | (i, b) :: rest, a, v =>
    if a < i then (a, v) :: (i, b) :: rest
    else if a = i then (a, v) :: rest
    else (i, b) :: Memory.write rest a v

/-- Set consecutive bytes from an index on. -/
def Memory.writeBytes (m : Memory) (a : Nat) : List Byte → Memory
  | [] => m
  | v :: vs => Memory.writeBytes (Memory.write m a v) (a + 1) vs

/-- Strictly rising indices, all at or above `lo` and below `size`. -/
def Memory.risingFrom (lo size : Nat) : Memory → Bool
  | [] => true
  | (i, _) :: rest => decide (lo ≤ i) && decide (i < size) && Memory.risingFrom (i + 1) size rest

/-- The canonical form of a buffer of `size` bytes. An unlisted index has no value, so no entry equals what an
unlisted index reads as (R332). -/
def Memory.wf (size : Nat) (m : Memory) : Bool := Memory.risingFrom 0 size m

/-- `MemRead(KEYBUF, a, n)` and `MemRead(INBUF, a, n)`: a byte the host has not written since reset has an unspecified
value, the same until the host writes it (R82, U3). -/
def memRead (buf : BufId) (m : Memory) (epoch a n : Nat) : List Byte :=
  (List.range n).map fun k => (Memory.read m (a + k)).getD (Config.unwrittenByte buf epoch (a + k))

/-- `MemWrite(OUTBUF, a, n, v)` (R83). -/
def memWriteOut (a : Nat) (v : List Byte) (s : State) : State :=
  { s with outbuf := Memory.writeBytes s.outbuf a v }

/-- Every OUTBUF byte becomes unspecified and OUT_LEN 0: what a failed data command leaves (R47, R301), and what a
successful one leaves of the bytes it does not write (R47, log 12). -/
def forgetOutput (s : State) : State := { s with outbuf := [], outLen := 0 }

/-- The output of a successful data command: OUTBUF[0 .. len) and OUT_LEN (R42, R47). -/
def writeOutput (v : List Byte) (s : State) : State :=
  { memWriteOut 0 v (forgetOutput s) with outLen := BitVec.ofNat 16 v.length }

/-- Word `i` of the schedule file; a word the held schedule does not list is unspecified (R52). -/
def schedWord (s : State) (i : Nat) : Word := (s.sched[i]?).getD (Config.unwrittenSchedWord s.epoch i)

/-- The commit of KEY_EXPAND: `S[0 .. T)`, KS_ROUNDS and KEY_VALID (R176). -/
def commitSchedule (sched : List Word) (s : State) : State :=
  { s with sched := sched, ksRounds := s.rounds, keyValid := true }

/-! The life of a command. -/

/-- The error codes of R119. -/
inductive Err where
  | illegalCmd | noKey | invalidBlockSize | invalidIvLength | invalidInputLength | emptyKey | invalidRounds
  | keyTooLong | lengthRange
deriving DecidableEq, Repr

/-- ERR_CODE.CODE of an error (R119). -/
def errCodeOf : Err → BitVec 4
  | .illegalCmd => 0x1
  | .noKey => 0x2
  | .invalidBlockSize => 0x3
  | .invalidIvLength => 0x4
  | .invalidInputLength => 0x5
  | .emptyKey => 0x6
  | .invalidRounds => 0x7
  | .keyTooLong => 0x8
  | .lengthRange => 0x9

/-- Accept: the word is latched, BUSY set, DONE and ERR_CODE cleared; nothing else changes (R271). -/
def accept (w : Word) (s : State) : State :=
  { s with pending := some { word := w, keychk := s.keychk }, busy := true, done := false, errCode := 0 }

/-- What both completions do (R276, R301): ERR_CODE, BUSY, DONE, no pending command. The hidden registers
hold unspecified values between commands (R53 to R57). -/
def endCommand (code : BitVec 4) (s : State) : State :=
  { s with errCode := code, busy := false, done := true, pending := none
           hidden := Config.freeHidden s.draws, draws := s.draws + 1 }

/-- `complete()`, the success completion (R276). -/
def complete (s : State) : State := endCommand 0 s

/-- `raise Err(code)`, the failure completion: this machine's way of taking an exception. A failed data command also
makes its output invalid (R301, R47). -/
def raiseErr (i : Instr) (e : Err) (s : State) : State :=
  endCommand (errCodeOf e) (if i.isData then forgetOutput s else s)

/-- The return from an error: there is no return instruction; the host acknowledges a completion by clearing DONE
(R280, R309). -/
def acknowledge (s : State) : State := { s with done := false }

/-- The first error in priority order whose condition holds (R303). -/
def firstError : List (Bool × Err) → Option Err
  | [] => none
  | (c, e) :: rest => if c then some e else firstError rest

/-- A data command: its checks all precede its first write (R304); then its output and the success completion. -/
def runData (i : Instr) (checks : List (Bool × Err)) (out : List Byte) (s : State) : State :=
  match firstError checks with
  | some e => raiseErr i e s
  | none => complete (writeOutput out s)

/-! Reset. -/

/-- Reset, from either source (R330, R331): the registers take their reset values and every buffer byte, schedule
word and hidden register is unspecified again. The parameters and the outside world's events stay; the free values drawn from
here on are new (log 5, 22). -/
def resetNow (s : State) : State :=
  { State.reset with
    cfg := s.cfg, script := s.script, rdata := s.rdata
    hidden := Config.freeHidden s.draws, draws := s.draws + 1, epoch := s.epoch + 1 }

end Sys2Proof.Machine
end

