-- ==== Sys2Proof/Machine/Operands.lean ====
section
/-! DEFINITION. The operands of the commands: registers widened with zero bits, and the byte sequences they select (30_encoding.md R114, R115;
45_command_control.md R281). -/

namespace Sys2Proof.Machine

/-- `r = zext_32(ROUNDS.R)`, the round count of a KEY_EXPAND (R115). -/
def roundsOp (s : State) : Nat := s.rounds.toNat

/-- `b = zext_32(KEY_LEN.N)` (R115). -/
def keyLenOp (s : State) : Nat := s.keyLen.toNat

/-- `n = zext_32(IN_LEN.N)` (R115). -/
def inLenOp (s : State) : Nat := s.inLen.toNat

/-- `ivn = zext_32(IV_LEN.N)` (R115). -/
def ivLenOp (s : State) : Nat := s.ivLen.toNat

/-- `r = zext_32(KS_ROUNDS.R)`, the round count of every cipher command (R43, R115). -/
def ksRoundsOp (s : State) : Nat := s.ksRounds.toNat

/-- CTRL.KEYCHK as sampled at accept (R281). -/
def keychkOp (s : State) : Bool :=
  match s.pending with
  | some l => l.keychk
  | none => s.keychk

/-- `MemRead(KEYBUF, 0, b)` (R170). -/
def keyBytes (s : State) : List Byte := memRead .keybuf s.keybuf s.epoch 0 (keyLenOp s)

/-- `MemRead(INBUF, 0, n)` (R196, R224, R245). -/
def inputBytes (s : State) : List Byte := memRead .inbuf s.inbuf s.epoch 0 (inLenOp s)

/-- The IV sequence: register IVk holds bytes 4k to 4k+3, little-endian (R44). -/
def ivBytes (s : State) : List Byte := wordsToBytes [s.iv0, s.iv1, s.iv2, s.iv3]

/-- The check NO_KEY (R286). -/
def noKey (s : State) : Bool := !s.keyValid

/-- The check LENGTH_RANGE (R286). -/
def lengthRange (s : State) : Bool := decide (s.cfg.nBuf < inLenOp s)

/-- The check INVALID_IV_LENGTH (R247, R248). -/
def badIvLength (s : State) : Bool := decide (ivLenOp s ≠ 16)

/-- The check INVALID_INPUT_LENGTH: zero, or not a multiple of 16 (R246, R248, R225; 90_conflicts.md C1). -/
def badInputLength (s : State) : Bool := decide (inLenOp s = 0 ∨ inLenOp s % 16 ≠ 0)

/-- The check INVALID_BLOCK_SIZE (R196, R197). -/
def badBlockSize (s : State) : Bool := decide (inLenOp s ≠ 16)

/-- The check INVALID_ROUNDS (R170). -/
def badRounds (s : State) : Bool := decide (roundsOp s = 0 ∨ s.cfg.rMax < roundsOp s)

/-- The check KEY_TOO_LONG (R170). -/
def keyTooLong (s : State) : Bool := decide (s.cfg.keyMaxBytes < keyLenOp s)

/-- The check EMPTY_KEY (R170, R319). -/
def emptyKey (s : State) : Bool := decide (keyLenOp s = 0) && keychkOp s

/-- `precheck(cipher)` (R286). -/
def precheckCipher (s : State) : List (Bool × Err) := [(noKey s, .noKey), (lengthRange s, .lengthRange)]

/-- `precheck(nokey)` (R286). -/
def precheckNoKey (s : State) : List (Bool × Err) := [(lengthRange s, .lengthRange)]

end Sys2Proof.Machine
end

