-- ==== Sys2Proof/Machine/BlockTransform.lean ====
section
/-! DEFINITION. The block transform and ENC_BLOCK, DEC_BLOCK (42_block_transform.md R190 to R199). A schedule is read as a function from
word index to word. -/

namespace Sys2Proof.Machine

/-- The block words A, B, C, D (R55, R152). -/
structure BlockRegs where
  A : Word
  B : Word
  C : Word
  D : Word
deriving DecidableEq, Repr

/-- Split a 16-byte block (R152). -/
def splitBlock (x : List Byte) : BlockRegs :=
  let ws := bytesToWords x
  { A := ws.getD 0 0, B := ws.getD 1 0, C := ws.getD 2 0, D := ws.getD 3 0 }

/-- Serialise the block words (R152). -/
def joinBlock (b : BlockRegs) : List Byte := wordsToBytes [b.A, b.B, b.C, b.D]

/-- Step 2 of R190. -/
def preWhiten (S : Nat → Word) (b : BlockRegs) : BlockRegs :=
  { b with B := add32 b.B (S 0), D := add32 b.D (S 1) }

/-- Round `i` of R190, R191, the tuple rotation last. -/
def encRound (S : Nat → Word) (i : Nat) (b : BlockRegs) : BlockRegs :=
  let tt := fmix b.B
  let uu := fmix b.D
  let A := add32 (rotl32 (xor32 b.A tt) (low5 uu.toNat)) (S (2 * i))
  let C := add32 (rotl32 (xor32 b.C uu) (low5 tt.toNat)) (S (2 * i + 1))
  { A := b.B, B := C, C := b.D, D := A }

/-- Rounds 1 to r (R190). -/
def encRounds (S : Nat → Word) : Nat → BlockRegs → BlockRegs
  | 0, b => b
  | r + 1, b => encRound S (r + 1) (encRounds S r b)

/-- Step 4 of R190. -/
def postWhiten (S : Nat → Word) (r : Nat) (b : BlockRegs) : BlockRegs :=
  { b with A := add32 b.A (S (2 * r + 2)), C := add32 b.C (S (2 * r + 3)) }

/-- `encBlock(S, r, x)` (R190). -/
def encBlock (S : Nat → Word) (r : Nat) (x : List Byte) : List Byte :=
  joinBlock (postWhiten S r (encRounds S r (preWhiten S (splitBlock x))))

/-- Undo the post-whitening (R193). -/
def undoPostWhiten (S : Nat → Word) (r : Nat) (b : BlockRegs) : BlockRegs :=
  { b with C := sub32 b.C (S (2 * r + 3)), A := sub32 b.A (S (2 * r + 2)) }

/-- The decryption of round `i`, the tuple rotation `(A,B,C,D) := (D,A,B,C)` first (R193, R194). -/
def decRound (S : Nat → Word) (i : Nat) (b : BlockRegs) : BlockRegs :=
  let t : BlockRegs := { A := b.D, B := b.A, C := b.B, D := b.C }
  let uu := fmix t.D
  let tt := fmix t.B
  { t with C := xor32 (rotr32 (sub32 t.C (S (2 * i + 1))) (low5 tt.toNat)) uu
           A := xor32 (rotr32 (sub32 t.A (S (2 * i))) (low5 uu.toNat)) tt }

/-- Rounds r down to 1 (R193). -/
def decRounds (S : Nat → Word) : Nat → BlockRegs → BlockRegs
  | 0, b => b
  | r + 1, b => decRounds S r (decRound S (r + 1) b)

/-- Undo the pre-whitening (R193). -/
def undoPreWhiten (S : Nat → Word) (b : BlockRegs) : BlockRegs :=
  { b with D := sub32 b.D (S 1), B := sub32 b.B (S 0) }

/-- `decBlock(S, r, y)` (R193). -/
def decBlock (S : Nat → Word) (r : Nat) (y : List Byte) : List Byte :=
  joinBlock (undoPreWhiten S (decRounds S r (undoPostWhiten S r (splitBlock y))))

/-- ENC_BLOCK (R196). -/
def execEncBlock (s : State) : Host.Outcome State Fault Refusal :=
  .next (runData .encBlock (precheckCipher s ++ [(badBlockSize s, .invalidBlockSize)])
    (encBlock (schedWord s) (ksRoundsOp s) (inputBytes s)) s)

/-- DEC_BLOCK (R197). -/
def execDecBlock (s : State) : Host.Outcome State Fault Refusal :=
  .next (runData .decBlock (precheckCipher s ++ [(badBlockSize s, .invalidBlockSize)])
    (decBlock (schedWord s) (ksRoundsOp s) (inputBytes s)) s)

end Sys2Proof.Machine
end

