-- ==== Sys2Proof/Machine/Command.lean ====
section
/-! DEFINITION. NOP and the illegal commands (45_command_control.md R278, R279). -/

namespace Sys2Proof.Machine

/-- NOP (R278). -/
def execNop (s : State) : Host.Outcome State Fault Refusal := .next (complete s)

/-- The reserved opcodes 0xA and 0xB (R113, R279). -/
def execIllegalAB (low : BitVec 1) (s : State) : Host.Outcome State Fault Refusal :=
  .next (raiseErr (.illegalAB low) .illegalCmd s)

/-- The reserved opcodes 0xC to 0xF (R113, R279). -/
def execIllegalCF (low : BitVec 2) (s : State) : Host.Outcome State Fault Refusal :=
  .next (raiseErr (.illegalCF low) .illegalCmd s)

/-- A word with RSV not 0 (R112, R279). -/
def execIllegalRsv (rsv : BitVec 28) (op : BitVec 4) (s : State) : Host.Outcome State Fault Refusal :=
  .next (raiseErr (.illegalRsv rsv op) .illegalCmd s)

end Sys2Proof.Machine
end

