-- ==== Sys2Proof/Machine/KeySchedule.lean ====
section
/-! DEFINITION. The key schedule expander and KEY_EXPAND (41_key_schedule.md R170 to R180). -/

namespace Sys2Proof.Machine

/-- The schedule length `T = 2*(r+2)` (R172). -/
def schedLen (r : Nat) : Nat := 2 * (r + 2)

/-- Step 1: the key words; an empty key is one zero word (R171, R175). -/
def keyWords (key : List Byte) : List Word :=
  match bytesToWords key with
  | [] => [0]
  | w :: ws => w :: ws

/-- `n` schedule words from `x` on, each MAGIC_Q above the one before (R172). -/
def initialFrom : Nat → Word → List Word
  | 0, _ => []
  | n + 1, x => x :: initialFrom n (add32 x Config.magicQ)

/-- Step 2: the initial schedule (R172). -/
def initialSchedule (r : Nat) : List Word := initialFrom (schedLen r) Config.magicP

/-- The key-schedule working registers (R53, R56). -/
structure MixRegs where
  KA : Word
  KB : Word
  i : Nat
  j : Nat
  S : List Word
  L : List Word
deriving DecidableEq, Repr

/-- One mixing step of R173. The cursors stay below the lengths of the lists they index. -/
def mixStep (T c : Nat) (m : MixRegs) : MixRegs :=
  let ka := rotl32 (add32 (add32 (m.S.getD m.i 0) m.KA) m.KB) 3
  let kb := rotl32 (add32 (add32 (m.L.getD m.j 0) ka) m.KB) (low5 (add32 ka m.KB).toNat)
  { KA := ka, KB := kb, S := m.S.set m.i ka, L := m.L.set m.j kb, i := (m.i + 1) % T, j := (m.j + 1) % c }

/-- Repeat the mixing step (R173). -/
def mixSteps (T c : Nat) : Nat → MixRegs → MixRegs
  | 0, m => m
  | n + 1, m => mixSteps T c n (mixStep T c m)

/-- The working registers after step 3 (R173). -/
def mixed (key : List Byte) (r : Nat) : MixRegs :=
  let L := keyWords key
  mixSteps (schedLen r) L.length (3 * max (schedLen r) L.length)
    { KA := 0, KB := 0, i := 0, j := 0, S := initialSchedule r, L := L }

/-- `expand(key, r)`; the final key words are discarded (R174). -/
def expand (key : List Byte) (r : Nat) : List Word := (mixed key r).S

/-- The checks of KEY_EXPAND in their order (R170, R303). -/
def keyExpandChecks (s : State) : List (Bool × Err) :=
  [(badRounds s, .invalidRounds), (keyTooLong s, .keyTooLong), (emptyKey s, .emptyKey)]

/-- KEY_EXPAND (R170, R176, R177). -/
def execKeyExpand (s : State) : Host.Outcome State Fault Refusal :=
  match firstError (keyExpandChecks s) with
  | some e => .next (raiseErr .keyExpand e s)
  | none => .next (complete (commitSchedule (expand (keyBytes s) (roundsOp s)) s))

end Sys2Proof.Machine
end

