-- ==== Sys2Proof/Machine/Padding.lean ====
section
/-! DEFINITION. The padding inserter and remover and PAD, UNPAD (43_padding.md R220 to R226). -/

namespace Sys2Proof.Machine

/-- `pad(s)` (R220). -/
def pad (s : List Byte) : List Byte :=
  let n := 16 - s.length % 16
  s ++ List.replicate n (BitVec.ofNat 8 n)

/-- `unpad(s)`: the permissive remover, which looks at the last byte only (R221, R222). The FRCE applies it to sequences of at
least 16 bytes. -/
def unpad (s : List Byte) : List Byte :=
  let v := (s.getLastD 0).toNat
  if 1 ≤ v ∧ v ≤ 16 then s.take (s.length - v) else s

/-- PAD (R224). -/
def execPad (s : State) : Host.Outcome State Fault Refusal :=
  .next (runData .pad (precheckNoKey s) (pad (inputBytes s)) s)

/-- UNPAD (R225). -/
def execUnpad (s : State) : Host.Outcome State Fault Refusal :=
  .next (runData .unpad (precheckNoKey s ++ [(badInputLength s, .invalidInputLength)]) (unpad (inputBytes s)) s)

end Sys2Proof.Machine
end

