-- ==== Sys2Proof/Machine/Modes.lean ====
section
/-! DEFINITION. The ECB/CBC mode controller and ENC_ECB, DEC_ECB, ENC_CBC, DEC_CBC (44_modes.md R240 to R252). -/

namespace Sys2Proof.Machine

/-- `blk(s, k) = s[16k .. 16k+16)` (44_modes.md). -/
def blk (s : List Byte) (k : Nat) : List Byte := (s.drop (16 * k)).take 16

/-- The blocks of a buffer, `nb(s) = len(s) / 16` of them, in order (44_modes.md). -/
def blocks (s : List Byte) : List (List Byte) := (List.range (s.length / 16)).map (blk s)

/-- `xor16(x, y)` (R11). -/
def xor16 (x y : List Byte) : List Byte := List.zipWith (· ^^^ ·) x y

/-- `ecbEnc(S, r, s)` (R240). -/
def ecbEnc (S : Nat → Word) (r : Nat) (s : List Byte) : List Byte :=
  (blocks (pad s)).flatMap (encBlock S r)

/-- `ecbDec(S, r, c)` (R241). -/
def ecbDec (S : Nat → Word) (r : Nat) (c : List Byte) : List Byte :=
  unpad ((blocks c).flatMap (decBlock S r))

/-- The CBC encryption of blocks from a chaining value on: the ciphertext block becomes the new CHAIN (R242, R244). -/
def cbcEncBlocks (S : Nat → Word) (r : Nat) (chain : List Byte) : List (List Byte) → List Byte
  | [] => []
  | p :: ps =>
    let y := encBlock S r (xor16 p chain)
    y ++ cbcEncBlocks S r y ps

/-- `cbcEnc(S, r, s, iv)` (R242). -/
def cbcEnc (S : Nat → Word) (r : Nat) (s iv : List Byte) : List Byte :=
  cbcEncBlocks S r iv (blocks (pad s))

/-- The CBC decryption of blocks from a chaining value on: the ciphertext block becomes the new CHAIN (R243, R244). -/
def cbcDecBlocks (S : Nat → Word) (r : Nat) (chain : List Byte) : List (List Byte) → List Byte
  | [] => []
  | c :: cs => xor16 (decBlock S r c) chain ++ cbcDecBlocks S r c cs

/-- `cbcDec(S, r, c, iv)` (R243). -/
def cbcDec (S : Nat → Word) (r : Nat) (c iv : List Byte) : List Byte :=
  unpad (cbcDecBlocks S r iv (blocks c))

/-- ENC_ECB (R245). -/
def execEncEcb (s : State) : Host.Outcome State Fault Refusal :=
  .next (runData .encEcb (precheckCipher s) (ecbEnc (schedWord s) (ksRoundsOp s) (inputBytes s)) s)

/-- DEC_ECB (R246). -/
def execDecEcb (s : State) : Host.Outcome State Fault Refusal :=
  .next (runData .decEcb (precheckCipher s ++ [(badInputLength s, .invalidInputLength)])
    (ecbDec (schedWord s) (ksRoundsOp s) (inputBytes s)) s)

/-- ENC_CBC (R247). -/
def execEncCbc (s : State) : Host.Outcome State Fault Refusal :=
  .next (runData .encCbc (precheckCipher s ++ [(badIvLength s, .invalidIvLength)])
    (cbcEnc (schedWord s) (ksRoundsOp s) (inputBytes s) (ivBytes s)) s)

/-- DEC_CBC: the IV check precedes the length check (R248, R303). -/
def execDecCbc (s : State) : Host.Outcome State Fault Refusal :=
  .next (runData .decCbc
    (precheckCipher s ++ [(badIvLength s, .invalidIvLength), (badInputLength s, .invalidInputLength)])
    (cbcDec (schedWord s) (ksRoundsOp s) (inputBytes s) (ivBytes s)) s)

end Sys2Proof.Machine
end

