-- ==== Sys2Proof/Machine/Dispatch.lean ====
section
/-! DEFINITION. The engine's dispatch of a decoded command (45_command_control.md R275). -/

namespace Sys2Proof.Machine

def exec (i : Instr) (s : State) : Host.Outcome State Fault Refusal :=
  match i with
  | .nop => Sys2Proof.Machine.execNop s
  | .keyExpand => Sys2Proof.Machine.execKeyExpand s
  | .encEcb => Sys2Proof.Machine.execEncEcb s
  | .decEcb => Sys2Proof.Machine.execDecEcb s
  | .encCbc => Sys2Proof.Machine.execEncCbc s
  | .decCbc => Sys2Proof.Machine.execDecCbc s
  | .encBlock => Sys2Proof.Machine.execEncBlock s
  | .decBlock => Sys2Proof.Machine.execDecBlock s
  | .pad => Sys2Proof.Machine.execPad s
  | .unpad => Sys2Proof.Machine.execUnpad s
  | .illegalAB low => Sys2Proof.Machine.execIllegalAB low s
  | .illegalCF low => Sys2Proof.Machine.execIllegalCF low s
  | .illegalRsv rsv op => Sys2Proof.Machine.execIllegalRsv rsv op s

end Sys2Proof.Machine
end

