-- ==== Sys2Proof/WellFormed.lean ====
section
/-! DEFINITION. Which terms of `Instr` stand for a command word (30_encoding.md R112, R116). -/

namespace Sys2Proof

/-- Every term stands for a word but one: the row 'RSV not 0' with RSV = 0 (R112, R116). -/
def Instr.wellFormed : Instr → Bool
  | .illegalRsv rsv _ => rsv ≠ 0
  | .nop | .keyExpand | .encEcb | .decEcb | .encCbc | .decCbc | .encBlock | .decBlock | .pad | .unpad
  | .illegalAB _ | .illegalCF _ => true

end Sys2Proof
end

