-- ==== Sys2Proof/Decode.lean ====
section
/-! DEFINITION. The command decoder and its encoder (30_encoding.md R110 to R117). -/

namespace Sys2Proof

/-- `w[3:0]` (R110). -/
def opField (w : Word) : BitVec 4 := w.extractLsb' 0 4

/-- `w[31:4]` (R110). -/
def rsvField (w : Word) : BitVec 28 := w.extractLsb' 4 28

/-- The command of an OP field whose word has RSV = 0 (R111, R113). -/
def decodeOp (op : BitVec 4) : Instr :=
  match op.toNat with
  | 0x0 => .nop
  | 0x1 => .keyExpand
  | 0x2 => .encEcb
  | 0x3 => .decEcb
  | 0x4 => .encCbc
  | 0x5 => .decCbc
  | 0x6 => .encBlock
  | 0x7 => .decBlock
  | 0x8 => .pad
  | 0x9 => .unpad
  | 0xA => .illegalAB 0
  | 0xB => .illegalAB 1
  | _ => .illegalCF (op.extractLsb' 0 2)

/-- The decoder is a total function of the 32-bit word; RSV is checked first (R116). -/
def decode (w : Word) : Instr :=
  if rsvField w ≠ 0 then .illegalRsv (rsvField w) (opField w) else decodeOp (opField w)

/-- The word of an instruction (R111, R112, R113; the rows of spec/opcode_table.json). -/
def encode : Instr → Word
  | .nop => 0x00000000
  | .keyExpand => 0x00000001
  | .encEcb => 0x00000002
  | .decEcb => 0x00000003
  | .encCbc => 0x00000004
  | .decCbc => 0x00000005
  | .encBlock => 0x00000006
  | .decBlock => 0x00000007
  | .pad => 0x00000008
  | .unpad => 0x00000009
  | .illegalAB low => BitVec.ofNat 32 (0xA + low.toNat)
  | .illegalCF low => BitVec.ofNat 32 (0xC + low.toNat)
  | .illegalRsv rsv op => BitVec.ofNat 32 (16 * rsv.toNat + op.toNat)

/-- Why bytes hold no command word. -/
inductive Reject where
  /-- Fewer than the four bytes of a command word (R110: one length). -/
  | truncated
deriving DecidableEq, Repr

/-- The first command word of a byte sequence, little-endian (R84, R110), and the bytes after it. -/
def decodeBytes : List Byte → Except Reject (Instr × List Byte)
  | b0 :: b1 :: b2 :: b3 :: rest => .ok (decode (Machine.packWord b0 b1 b2 b3), rest)
  | _ => .error .truncated

/-- What the decoder reads from a word numbered as spec/opcode_table.json numbers it: the four bytes of the
command word, little-endian. A number that no 32-bit word holds is no command word (R110). -/
def decodeTableWord (nbits w : Nat) : Option Instr :=
  if nbits ≤ 32 ∧ w < 2 ^ 32 then
    match decodeBytes (Machine.bytes4 (BitVec.ofNat 32 w)) with
    | .ok (i, _) => some i
    | .error _ => none
  else none

end Sys2Proof
end

