-- ==== Sys2Proof/Machine/Flags.lean ====
section
/-! DEFINITION. The flags: the STATUS bits and the interrupt level (10_state.md R35, R48, R50). No command writes a flag but at its
accept and its completion (R50), and the ALU has no condition codes. -/

namespace Sys2Proof.Machine

/-- STATUS.ERR: 1 exactly when ERR_CODE.CODE is not 0 (R35). -/
def errFlag (s : State) : Bool := decide (s.errCode ≠ 0)

/-- The output signal: `CTRL.IE AND STATUS.DONE` (R48, R305). -/
def irq (s : State) : Bool := s.ie && s.done

/-- A KEY_EXPAND is running (R274). -/
def keyExpandRuns (s : State) : Bool :=
  match s.pending with
  | some l => decide (decode l.word = .keyExpand)
  | none => false

/-- STATUS.KEY_VALID as a read shows it: unspecified while a KEY_EXPAND runs (R274, U2). -/
def keyValidRead (s : State) : Bool :=
  if keyExpandRuns s then (Config.freeWord s.draws).getLsbD 2 else s.keyValid

/-- Bit `n` of a register word. -/
def bitAt (b : Bool) (n : Nat) : Word := (BitVec.ofBool b).zeroExtend 32 <<< n

/-- The word a read of STATUS returns; the reserved bits read 0 (R35). -/
def statusWord (s : State) : Word :=
  bitAt s.busy 0 ||| bitAt s.done 1 ||| bitAt (keyValidRead s) 2 ||| bitAt (errFlag s) 3 ||| bitAt s.busyWr 4

/-- The word a read of CTRL returns; SRST and the reserved bits read 0 (R34). -/
def ctrlWord (s : State) : Word := bitAt s.ie 0 ||| bitAt s.keychk 1

/-- A host write to CTRL: SRST resets and the other bits are ignored; else IE and KEYCHK are written (R34, R330). -/
def writeCtrl (v : Word) (s : State) : State :=
  if v.getLsbD 2 then resetNow s else { s with ie := v.getLsbD 0, keychk := v.getLsbD 1 }

/-- The write-one-to-clear bit BUSY_WR (R35). -/
def clearBusyWr (s : State) : State := { s with busyWr := false }

/-- A host write to STATUS: a written 1 in bit 1 clears DONE and in bit 4 clears BUSY_WR; the other bits are ignored (R35). -/
def writeStatus (v : Word) (s : State) : State :=
  let s := if v.getLsbD 1 then acknowledge s else s
  if v.getLsbD 4 then clearBusyWr s else s

/-- A write dropped because a command runs sets BUSY_WR (R272, R273). -/
def dropWrite (s : State) : State := { s with busyWr := true }

end Sys2Proof.Machine
end

