-- ==== Sys2Proof/Machine/Locations.lean ====
section
/-! DEFINITION. The register map (10_state.md R32). -/

namespace Sys2Proof.Machine

/-- The locations of the host register space (R32). A window word carries its index. -/
inductive Loc where
  | ctrl | status | cmd | errCode | rounds | keyLen | ivLen | inLen | outLen | ksRounds
  | iv0 | iv1 | iv2 | iv3
  | keyw (k : Nat)
  | inw (k : Nat)
  | outw (k : Nat)
  | unmapped
deriving DecidableEq, Repr

/-- The windows KEYW, INW and OUTW (R32). -/
def locateWindow (p : Params) (off : Nat) : Loc :=
  if 0x100 ≤ off ∧ off < 0x100 + p.keyMaxBytes then .keyw ((off - 0x100) / 4)
  else if 0x2000 ≤ off ∧ off < 0x2000 + p.nBuf then .inw ((off - 0x2000) / 4)
  else if 0x4000 ≤ off ∧ off < 0x4000 + p.nOut then .outw ((off - 0x4000) / 4)
  else .unmapped

/-- The location at a byte offset from BASE that is a multiple of 4; every offset from 0x6000 is unmapped (R32). -/
def locate (p : Params) (off : Nat) : Loc :=
  match off with
  | 0x000 => .ctrl
  | 0x004 => .status
  | 0x008 => .cmd
  | 0x00C => .errCode
  | 0x010 => .rounds
  | 0x014 => .keyLen
  | 0x018 => .ivLen
  | 0x01C => .inLen
  | 0x020 => .outLen
  | 0x024 => .ksRounds
  | 0x030 => .iv0
  | 0x034 => .iv1
  | 0x038 => .iv2
  | 0x03C => .iv3
  | _ => locateWindow p off

/-- The offset of a location (R32); the unmapped locations have no one offset. -/
def offsetOf : Loc → Option Nat
  | .ctrl => some 0x000
  | .status => some 0x004
  | .cmd => some 0x008
  | .errCode => some 0x00C
  | .rounds => some 0x010
  | .keyLen => some 0x014
  | .ivLen => some 0x018
  | .inLen => some 0x01C
  | .outLen => some 0x020
  | .ksRounds => some 0x024
  | .iv0 => some 0x030
  | .iv1 => some 0x034
  | .iv2 => some 0x038
  | .iv3 => some 0x03C
  | .keyw k => some (0x100 + 4 * k)
  | .inw k => some (0x2000 + 4 * k)
  | .outw k => some (0x4000 + 4 * k)
  | .unmapped => none

end Sys2Proof.Machine
end

