-- ==== Sys2Proof/Machine/HostAccess.lean ====
section
/-! DEFINITION. The host's moves: writes, reads and reset (10_state.md R32 to R47; 45_command_control.md R271 to R274, R284). -/

namespace Sys2Proof.Machine

/-- A host write to a window word sets its four bytes, little-endian (R45, R46, R84). -/
def writeWindow (m : Memory) (k : Nat) (v : Word) : Memory := Memory.writeBytes m (4 * k) (bytes4 v)

/-- A host write to CMD: the accept while idle (R271), dropped while busy (R272). -/
def writeCmd (v : Word) (s : State) : State := if s.busy then dropWrite s else accept v s

/-- A host write, while idle, to a location other than CTRL, STATUS and CMD: reserved bits, read-only and unmapped
locations ignore it (R33, R37 to R47). -/
def writeIdle (l : Loc) (v : Word) (s : State) : State :=
  match l with
  | .rounds => { s with rounds := v.extractLsb' 0 8 }
  | .keyLen => { s with keyLen := v.extractLsb' 0 16 }
  | .ivLen => { s with ivLen := v.extractLsb' 0 8 }
  | .inLen => { s with inLen := v.extractLsb' 0 16 }
  | .iv0 => { s with iv0 := v }
  | .iv1 => { s with iv1 := v }
  | .iv2 => { s with iv2 := v }
  | .iv3 => { s with iv3 := v }
  | .keyw k => { s with keybuf := writeWindow s.keybuf k v }
  | .inw k => { s with inbuf := writeWindow s.inbuf k v }
  | .ctrl | .status | .cmd | .errCode | .outLen | .ksRounds | .outw _ | .unmapped => s

/-- A host write to a location (R284). -/
def writeLoc (l : Loc) (v : Word) (s : State) : State :=
  match l with
  | .ctrl => writeCtrl v s
  | .status => writeStatus v s
  | .cmd => writeCmd v s
  | .errCode | .rounds | .keyLen | .ivLen | .inLen | .outLen | .ksRounds | .iv0 | .iv1 | .iv2 | .iv3
  | .keyw _ | .inw _ | .outw _ | .unmapped => if s.busy then dropWrite s else writeIdle l v s

/-- A read of window word `k`: byte 4k+m as stored, little-endian, or byte m of the word drawn for this read where the
byte is unspecified (R46, R47, U1, U4). -/
def windowRead (stored : Nat → Option Byte) (k : Nat) (drawn : Word) : Word :=
  packWord ((stored (4 * k)).getD (byteOf drawn 0)) ((stored (4 * k + 1)).getD (byteOf drawn 1))
    ((stored (4 * k + 2)).getD (byteOf drawn 2)) ((stored (4 * k + 3)).getD (byteOf drawn 3))

/-- The specified bytes of OUTBUF: those below OUT_LEN (R47, R284). -/
def outputByte (s : State) (a : Nat) : Option Byte :=
  if a < s.outLen.toNat then Memory.read s.outbuf a else none

/-- The word a host read of a location returns (R274, R284). OUT_LEN, KS_ROUNDS and OUTW are unspecified while busy;
CMD and KEYW read 0 (R33). -/
def readLoc (l : Loc) (s : State) : Word :=
  let drawn := Config.freeWord s.draws
  match l with
  | .ctrl => ctrlWord s
  | .status => statusWord s
  | .cmd => 0
  | .errCode => s.errCode.zeroExtend 32
  | .rounds => s.rounds.zeroExtend 32
  | .keyLen => s.keyLen.zeroExtend 32
  | .ivLen => s.ivLen.zeroExtend 32
  | .inLen => s.inLen.zeroExtend 32
  | .outLen => if s.busy then drawn else s.outLen.zeroExtend 32
  | .ksRounds => if s.busy then drawn else s.ksRounds.zeroExtend 32
  | .iv0 => s.iv0
  | .iv1 => s.iv1
  | .iv2 => s.iv2
  | .iv3 => s.iv3
  | .keyw _ => 0
  | .inw k => windowRead (Memory.read s.inbuf) k drawn
  | .outw k => if s.busy then drawn else windowRead (outputByte s) k drawn
  | .unmapped => 0

/-- What a read leaves: the word on the bus, and a new draw for the next read. No read has a side effect on the FRCE
(R88). -/
def finishRead (v : Word) (s : State) : State := { s with rdata := v, draws := s.draws + 1 }

/-- A host access of the interface is an aligned word (R81, U11; log 10). An aligned offset from 0x6000 is unmapped (R32), so it
reads 0 and ignores writes (R33). -/
def hostAccess (off : Nat) (t : State) : Host.Outcome State Fault Refusal :=
  if off % 4 ≠ 0 then .refused .unalignedHostAccess else .next t

/-- A move of the host (R284). -/
def hostMove (m : HostMove) (s : State) : Host.Outcome State Fault Refusal :=
  match m with
  | .write off v => hostAccess off (writeLoc (locate s.cfg off) v s)
  | .read off => hostAccess off (finishRead (readLoc (locate s.cfg off) s) s)
  | .reset => .next (resetNow s)

end Sys2Proof.Machine
end

