-- ==== Sys2Proof/Machine/Events.lean ====
section
/-! DEFINITION. Which event comes next, and the word the engine's turn runs (45_command_control.md R270, R277, R284; 60_exceptions.md R308). -/

namespace Sys2Proof.Machine

/-- Whose turn it is. -/
inductive Turn where
  | host (m : HostMove)
  | engine
  /-- The host's access is at an address below BASE. -/
  | elsewhere
deriving DecidableEq, Repr

/-- A bus address counted from BASE (R32, R89); an address below BASE has no offset. -/
def offsetAt (p : Params) (addr : Nat) : Option Nat := if p.base ≤ addr then some (addr - p.base) else none

/-- The turn of a move on the bus: the move on the register space that it is (R89, R284). -/
def busTurn (p : Params) (m : BusMove) : Turn :=
  match m with
  | .write addr v =>
    match offsetAt p addr with
    | some off => .host (.write off v)
    | none => .elsewhere
  | .read addr =>
    match offsetAt p addr with
    | some off => .host (.read off)
    | none => .elsewhere
  | .reset => .host .reset

/-- The events that remain after one is taken. -/
def setScript (es : List Event) (s : State) : State := { s with script := es }

/-- The next event, and the state with that event taken from the script. With nothing left the engine has its turn (R277; log 3).
A wait gives the engine its turn while a command runs, and is then one read of STATUS (R120; log 4). -/
def nextTurn (s : State) : Turn × State :=
  match s.script with
  | [] => (.engine, s)
  | .host m :: es => (busTurn s.cfg m, setScript es s)
  | .engine :: es => (.engine, setScript es s)
  | .wait :: es => if s.busy then (.engine, s) else (.host (.read 0x004), setScript es s)

/-- The word in the command latch: what the engine's turn decodes and runs (R58, R275). -/
def latchedWord (s : State) : Option Word := s.pending.map Latch.word

/-- The state whose next step runs the command word `w`: `w` accepted (R271), and the engine's turn next (log 14). -/
def placeCommand (w : Word) (s : State) : State := setScript (.engine :: s.script) (accept w s)

end Sys2Proof.Machine
end

