-- ==== Sys2Proof/Machine/Step.lean ====
section
/-! DEFINITION. One step: one event of the host or of the engine (45_command_control.md R270, R284). -/

namespace Sys2Proof.Machine

/-- One event. The engine's turn runs the latched command to its completion (R275); with none latched the FRCE
does nothing (R316; log 17). An access below BASE is none of the FRCE's (log 10). -/
def step (s : State) : Host.Outcome State Fault Refusal :=
  match nextTurn s with
  | (.host m, t) => hostMove m t
  | (.elsewhere, _) => .fault .addressBelowBase
  | (.engine, t) =>
    match latchedWord t with
    | some w => exec (decode w) t
    | none => .next t

/-- The state in which the next step runs the command word `w`: its accept has happened (log 14). A command word has 32 bits
and `nbits` is 32 for every row of the table. -/
def State.withFetchWord (s : State) (nbits w : Nat) : State := placeCommand (BitVec.ofNat 32 (w % 2 ^ nbits)) s

end Sys2Proof.Machine
end

