-- ==== Sys2Proof/Safety.lean ====
section
/-! DEFINITION. The invariant of the machine, and the comparisons of states that the statements use. -/

namespace Sys2Proof.Machine

/-- What every reachable state has: legal parameters (R7); BUSY exactly while a command is latched (R60); a running command
has DONE and ERR_CODE clear (R271); ERR_CODE is never a reserved code (R119, U14); a held schedule has `2*(KS_ROUNDS+2)` words and a legal
round count (R43, R52), and there is none before KEY_VALID (R331); the buffers are in canonical form within their sizes; OUTBUF
has exactly the bytes below OUT_LEN, at most N_OUT of them (R42, R47). -/
abbrev State.Inv (s : State) : Prop :=
  s.cfg.Legal ∧
  s.busy = s.pending.isSome ∧
  (s.busy = true → s.done = false ∧ s.errCode = 0) ∧
  s.errCode.toNat ≤ 9 ∧
  (s.keyValid = true →
    (1 ≤ s.ksRounds.toNat ∧ s.ksRounds.toNat ≤ s.cfg.rMax) ∧ s.sched.length = 2 * (s.ksRounds.toNat + 2)) ∧
  (s.keyValid = false → s.ksRounds = 0 ∧ s.sched = []) ∧
  Memory.wf s.cfg.keyMaxBytes s.keybuf = true ∧
  Memory.wf s.cfg.nBuf s.inbuf = true ∧
  Memory.wf s.cfg.nOut s.outbuf = true ∧
  s.outLen.toNat ≤ s.cfg.nOut ∧
  s.outbuf.map Prod.fst = List.range s.outLen.toNat

/-- Nothing but the model's own free values differs: the frame every completion keeps (R114, R301): the parameters, CTRL,
BUSY_WR, the input registers, the IV, KEYBUF and INBUF byte by byte, the script, the bus word and the epoch. -/
abbrev InputsKept (s t : State) : Prop :=
  t.cfg = s.cfg ∧ t.ie = s.ie ∧ t.keychk = s.keychk ∧ t.busyWr = s.busyWr ∧ t.rounds = s.rounds ∧
  t.keyLen = s.keyLen ∧ t.ivLen = s.ivLen ∧ t.inLen = s.inLen ∧
  t.iv0 = s.iv0 ∧ t.iv1 = s.iv1 ∧ t.iv2 = s.iv2 ∧ t.iv3 = s.iv3 ∧
  (∀ a, Memory.read t.keybuf a = Memory.read s.keybuf a) ∧
  (∀ a, Memory.read t.inbuf a = Memory.read s.inbuf a) ∧
  t.script = s.script ∧ t.rdata = s.rdata ∧ t.epoch = s.epoch

/-- The held key schedule is as before: S, KS_ROUNDS and KEY_VALID (R51). -/
abbrev ScheduleKept (s t : State) : Prop :=
  t.sched = s.sched ∧ t.ksRounds = s.ksRounds ∧ t.keyValid = s.keyValid

/-- The output is as before: OUT_LEN and every byte of OUTBUF. -/
abbrev OutputKept (s t : State) : Prop :=
  t.outLen = s.outLen ∧ ∀ a, Memory.read t.outbuf a = Memory.read s.outbuf a

/-- The command has ended with an error code, 0 for success (R276, R301). -/
abbrev Ended (code : BitVec 4) (t : State) : Prop :=
  t.busy = false ∧ t.done = true ∧ t.errCode = code ∧ t.pending = none

/-- The output is `v`: OUT_LEN is its length, and OUTBUF holds it from index 0 and nothing the model knows beyond (R42, R47). -/
abbrev OutputIs (v : List Byte) (t : State) : Prop :=
  t.outLen.toNat = v.length ∧ ∀ a, Memory.read t.outbuf a = v[a]?

/-- The data command `i` ends in the error `e` and leaves no valid output (R301, R47). -/
abbrev FailsWith (i : Instr) (e : Err) (s : State) : Prop :=
  ∃ t, exec i s = .next t ∧ Ended (errCodeOf e) t ∧ OutputIs [] t ∧ InputsKept s t ∧ ScheduleKept s t

/-- The data command `i` succeeds with the output `v`. -/
abbrev SucceedsWith (i : Instr) (v : List Byte) (s : State) : Prop :=
  ∃ t, exec i s = .next t ∧ Ended 0 t ∧ OutputIs v t ∧ InputsKept s t ∧ ScheduleKept s t

/-- A host move that is no reset: neither the reset input nor a write of CTRL.SRST = 1 (R330). -/
abbrev HostMove.NoReset : HostMove → Prop
  | .write off v => off = 0 → v.getLsbD 2 = false
  | .read _ => True
  | .reset => False

/-- A move on the bus that is no reset: its move on the register space is none. -/
abbrev BusMove.NoReset (p : Params) (m : BusMove) : Prop := ∀ h, busTurn p m = .host h → h.NoReset

/-- An access the interface has: an aligned word (R81). -/
abbrev AccessOk (off : Nat) : Prop := off % 4 = 0

/-- Two states that differ in the key and the schedule at most. -/
abbrev SameButKey (s t : State) : Prop := t = { s with keybuf := t.keybuf, sched := t.sched }

end Sys2Proof.Machine
end

