-- ==== Sys2Proof/Certificates/Slice0/Obligations.lean ====
section
/-! DEFINITION. The statements about the model, from the numbered rules of spec/. -/

open Sys2Proof Sys2Proof.Machine

/-! Encoding. -/

/-- R110 to R116: no bit of a command word is dropped. -/
def Obligations.DecodeOfEncodeIsIdentity : Prop :=
  ∀ i : Instr, i.wellFormed = true → decode (encode i) = i

/-- R116: the decoder is total and gives well-formed instructions only. That the word can be recovered from the instruction, for an
illegal word too, is the model's choice (log 15): R116 has one Illegal for all of them. -/
def Obligations.EncodeOfDecodeIsIdentity : Prop :=
  ∀ w : Word, (decode w).wellFormed = true ∧ encode (decode w) = w

/-- R116: exactly 10 of the 2^32 words decode to a command, each to its own, and every other word to an illegal one. -/
def Obligations.ExactlyTenWordsAreCommands : Prop :=
  (∀ w : Word, (decode w).isCommand = true ↔ w.toNat < 10) ∧
  decode 0x0 = .nop ∧ decode 0x1 = .keyExpand ∧ decode 0x2 = .encEcb ∧ decode 0x3 = .decEcb ∧ decode 0x4 = .encCbc ∧
  decode 0x5 = .decCbc ∧ decode 0x6 = .encBlock ∧ decode 0x7 = .decBlock ∧ decode 0x8 = .pad ∧ decode 0x9 = .unpad

/-- R111: the words of the ten commands; R113 and R112: some illegal words. -/
def Obligations.CommandWordsDecode : Prop :=
  decode 0x00000000 = .nop ∧ decode 0x00000001 = .keyExpand ∧ decode 0x00000002 = .encEcb ∧
  decode 0x00000003 = .decEcb ∧ decode 0x00000004 = .encCbc ∧ decode 0x00000005 = .decCbc ∧
  decode 0x00000006 = .encBlock ∧ decode 0x00000007 = .decBlock ∧ decode 0x00000008 = .pad ∧
  decode 0x00000009 = .unpad ∧ decode 0x0000000A = .illegalAB 0 ∧ decode 0x0000000B = .illegalAB 1 ∧
  decode 0x0000000C = .illegalCF 0 ∧ decode 0x0000000F = .illegalCF 3 ∧ decode 0x00000012 = .illegalRsv 1 2

/-! Steps. -/

/-- R275: the engine's turn runs the latched command, decoded; the turn comes with an empty script, at an engine event, or
at a wait while busy. A command placed by withFetchWord is accepted and then run. -/
def Obligations.StepRunsLatchedCommand : Prop :=
  (∀ s l, s.pending = some l → s.script = [] → step s = exec (decode l.word) s) ∧
  (∀ s l es, s.pending = some l → s.script = .engine :: es → step s = exec (decode l.word) (setScript es s)) ∧
  (∀ s l es, s.pending = some l → s.script = .wait :: es → s.busy = true → step s = exec (decode l.word) s) ∧
  (∀ (s : State) (w : Nat), w < 2 ^ 32 →
    step (s.withFetchWord 32 w) = exec (decode (BitVec.ofNat 32 w)) (accept (BitVec.ofNat 32 w) s))

/-- R270, R89, R316: a host event at a bus address from BASE on makes the host's move at the offset from BASE; an access below BASE
stops (the model's choice, log 10); the engine's turn with no command latched changes nothing but the script. -/
def Obligations.StepMakesHostMove : Prop :=
  (∀ s off v es, s.script = .host (.write (s.cfg.base + off) v) :: es → step s = hostMove (.write off v) (setScript es s)) ∧
  (∀ s off es, s.script = .host (.read (s.cfg.base + off)) :: es → step s = hostMove (.read off) (setScript es s)) ∧
  (∀ s es, s.script = .host .reset :: es → step s = hostMove .reset (setScript es s)) ∧
  (∀ s addr es, addr < s.cfg.base → (s.script = .host (.read addr) :: es ∨ ∃ v, s.script = .host (.write addr v) :: es) →
    step s = .fault .addressBelowBase) ∧
  (∀ s es, s.script = .wait :: es → s.busy = false → step s = hostMove (.read 0x004) (setScript es s)) ∧
  (∀ s, s.pending = none → s.script = [] → step s = .next s) ∧
  (∀ s es, s.pending = none → s.script = .engine :: es → step s = .next (setScript es s))

/-- R300, R81: no command stops the machine. A step stops exactly when the host makes an access the interface does not have, a
misaligned one, which U11 refuses, or one below BASE (a stop of the model's choice, log 10). -/
def Obligations.OnlyForeignAccessesStop : Prop :=
  ∀ s, (∃ t, step s = .next t) ↔
    ¬ ∃ addr es, (s.script = .host (.read addr) :: es ∨ ∃ v, s.script = .host (.write addr v) :: es) ∧
      (addr < s.cfg.base ∨ ¬ AccessOk (addr - s.cfg.base))

/-- R271, R277: a command word written while idle and then the engine's turn: the command is accepted and completes, and
the FRCE is idle again with DONE set and a code of the error table. -/
def Obligations.WrittenCommandCompletes : Prop :=
  ∀ s w es, s.busy = false → s.script = .host (.write (s.cfg.base + 0x008) w) :: .engine :: es →
    ∃ t u code, step s = .next t ∧ t.busy = true ∧ t.done = false ∧ step t = .next u ∧ Ended code u ∧
      code.toNat ≤ 9 ∧ u.script = es

/-! The host's writes. -/

/-- R271: accept latches the word and CTRL.KEYCHK, sets BUSY, clears DONE and ERR_CODE; nothing else changes. -/
def Obligations.CommandWriteWhileIdleIsAccepted : Prop :=
  ∀ s w, s.busy = false →
    ∃ t, hostMove (.write 0x008 w) s = .next t ∧ t.pending = some { word := w, keychk := s.keychk } ∧
      t.busy = true ∧ t.done = false ∧ t.errCode = 0 ∧
      InputsKept s t ∧ ScheduleKept s t ∧ OutputKept s t ∧ t.hidden = s.hidden ∧ t.draws = s.draws

/-- R272, R273: a write while busy to any location but CTRL and STATUS is dropped and marks BUSY_WR: a command, an input, a
read-only or an unmapped offset; writes to CTRL and STATUS take effect. -/
def Obligations.WritesWhileBusyAreDropped : Prop :=
  ∀ s off v, s.busy = true → AccessOk off →
    (off ≠ 0x000 → off ≠ 0x004 → hostMove (.write off v) s = .next { s with busyWr := true }) ∧
    (off = 0x000 → v.getLsbD 2 = false →
      hostMove (.write off v) s = .next { s with ie := v.getLsbD 0, keychk := v.getLsbD 1 }) ∧
    (off = 0x000 → v.getLsbD 2 = true → hostMove (.write off v) s = hostMove .reset s) ∧
    (off = 0x004 → hostMove (.write off v) s =
      .next { s with done := s.done && !v.getLsbD 1, busyWr := s.busyWr && !v.getLsbD 4 })

/-- R34: a write to CTRL is accepted at any time; SRST = 1 is a reset, else IE and KEYCHK are written. A read shows IE and
KEYCHK, and 0 in every other bit. -/
def Obligations.ControlRegister : Prop :=
  (∀ s v, v.getLsbD 2 = false →
    hostMove (.write 0x000 v) s = .next { s with ie := v.getLsbD 0, keychk := v.getLsbD 1 }) ∧
  (∀ s v, v.getLsbD 2 = true → hostMove (.write 0x000 v) s = hostMove .reset s) ∧
  (∀ s, ∃ t, hostMove (.read 0x000) s = .next t ∧
    ∀ n, t.rdata.getLsbD n = if n = 0 then s.ie else if n = 1 then s.keychk else false)

/-- R35: for each of bits 1 and 4 of a write to STATUS, a written 1 clears the bit and a written 0 leaves it; nothing else
is written. -/
def Obligations.StatusWriteClearsOnes : Prop :=
  ∀ s v, hostMove (.write 0x004 v) s =
    .next { s with done := s.done && !v.getLsbD 1, busyWr := s.busyWr && !v.getLsbD 4 }

/-- R35, R274: the bits a read of STATUS shows; ERR is 1 exactly when ERR_CODE is not 0; KEY_VALID is as held unless a
KEY_EXPAND runs. -/
def Obligations.StatusReadShowsFlags : Prop :=
  ∀ s, ∃ t, hostMove (.read 0x004) s = .next t ∧
    t.rdata.getLsbD 0 = s.busy ∧ t.rdata.getLsbD 1 = s.done ∧
    ((∀ l, s.pending = some l → decode l.word ≠ .keyExpand) → t.rdata.getLsbD 2 = s.keyValid) ∧
    (t.rdata.getLsbD 3 = true ↔ s.errCode ≠ 0) ∧ t.rdata.getLsbD 4 = s.busyWr ∧
    ∀ n, 5 ≤ n → t.rdata.getLsbD n = false

/-- R37, R39, R40, R41, R44: an idle write to an input register reaches its field and nothing else. -/
def Obligations.IdleWritesReachInputRegisters : Prop :=
  ∀ s v, s.busy = false →
    hostMove (.write 0x010 v) s = .next { s with rounds := v.extractLsb' 0 8 } ∧
    hostMove (.write 0x014 v) s = .next { s with keyLen := v.extractLsb' 0 16 } ∧
    hostMove (.write 0x018 v) s = .next { s with ivLen := v.extractLsb' 0 8 } ∧
    hostMove (.write 0x01C v) s = .next { s with inLen := v.extractLsb' 0 16 } ∧
    hostMove (.write 0x030 v) s = .next { s with iv0 := v } ∧
    hostMove (.write 0x034 v) s = .next { s with iv1 := v } ∧
    hostMove (.write 0x038 v) s = .next { s with iv2 := v } ∧
    hostMove (.write 0x03C v) s = .next { s with iv3 := v }

/-- R33, R37, R39, R40, R41, R44: what an idle write to an input register left reads back, its reserved bits as 0. -/
def Obligations.InputRegistersReadBack : Prop :=
  ∀ s v off mask, s.busy = false →
    ((off = 0x010 ∧ mask = 0xFF) ∨ (off = 0x014 ∧ mask = 0xFFFF) ∨ (off = 0x018 ∧ mask = 0xFF) ∨
      (off = 0x01C ∧ mask = 0xFFFF) ∨
      ((off = 0x030 ∨ off = 0x034 ∨ off = 0x038 ∨ off = 0x03C) ∧ mask = 0xFFFFFFFF)) →
    ∃ t u, hostMove (.write off v) s = .next t ∧ hostMove (.read off) t = .next u ∧ u.rdata = v &&& mask

/-- R45: an idle write of word k of the key window sets bytes 4k to 4k+3 of KEYBUF, little-endian, and nothing else; in every
state, busy or idle, the window reads 0. -/
def Obligations.KeyWindowWritesKeybuf : Prop :=
  (∀ s v k, s.cfg.Legal → s.busy = false → 4 * k < s.cfg.keyMaxBytes →
    ∃ t, hostMove (.write (0x100 + 4 * k) v) s = .next t ∧
      (∀ m, m < 4 → Memory.read t.keybuf (4 * k + m) = some (v.extractLsb' (8 * m) 8)) ∧
      (∀ a, a < 4 * k ∨ 4 * k + 4 ≤ a → Memory.read t.keybuf a = Memory.read s.keybuf a) ∧
      t = { s with keybuf := t.keybuf }) ∧
  (∀ s k, s.cfg.Legal → 4 * k < s.cfg.keyMaxBytes →
    ∃ t, hostMove (.read (0x100 + 4 * k)) s = .next t ∧ t.rdata = 0)

/-- R46, R84: an idle write of word k of the input window sets bytes 4k to 4k+3 of INBUF, little-endian, and nothing else, and
reads back; in every state, busy or idle, byte m of a read of word k is byte 4k+m of INBUF where that holds a value. -/
def Obligations.InputWindowWritesInbuf : Prop :=
  (∀ s v k, s.cfg.Legal → s.busy = false → 4 * k < s.cfg.nBuf →
    ∃ t, hostMove (.write (0x2000 + 4 * k) v) s = .next t ∧
      (∀ m, m < 4 → Memory.read t.inbuf (4 * k + m) = some (v.extractLsb' (8 * m) 8)) ∧
      (∀ a, a < 4 * k ∨ 4 * k + 4 ≤ a → Memory.read t.inbuf a = Memory.read s.inbuf a) ∧
      t = { s with inbuf := t.inbuf } ∧
      ∃ u, hostMove (.read (0x2000 + 4 * k)) t = .next u ∧ u.rdata = v) ∧
  (∀ s k m b, s.cfg.Legal → 4 * k < s.cfg.nBuf → m < 4 → Memory.read s.inbuf (4 * k + m) = some b →
    ∃ t, hostMove (.read (0x2000 + 4 * k)) s = .next t ∧ t.rdata.extractLsb' (8 * m) 8 = b)

/-- R33: an idle write to a read-only register or window, or to an unmapped offset, changes nothing; in every state, busy or
idle, an unmapped offset and CMD read 0. The unmapped offsets are those of the map of R32, every one from 0x6000 among them. -/
def Obligations.ReadOnlyAndUnmappedIgnoreWrites : Prop :=
  ∀ s off v, s.cfg.Legal → AccessOk off →
    (s.busy = false → off = 0x00C ∨ off = 0x020 ∨ off = 0x024 ∨ (0x4000 ≤ off ∧ off < 0x4000 + s.cfg.nOut) →
      hostMove (.write off v) s = .next s) ∧
    ((0x028 ≤ off ∧ off ≤ 0x02C) ∨ (0x040 ≤ off ∧ off ≤ 0x0FC) ∨ (0x100 + s.cfg.keyMaxBytes ≤ off ∧ off ≤ 0x1FFC) ∨
        (0x2000 + s.cfg.nBuf ≤ off ∧ off ≤ 0x3FFC) ∨ 0x4000 + s.cfg.nOut ≤ off →
      (s.busy = false → hostMove (.write off v) s = .next s) ∧
      ∃ t, hostMove (.read off) s = .next t ∧ t.rdata = 0) ∧
    (off = 0x008 → ∃ t, hostMove (.read off) s = .next t ∧ t.rdata = 0)

/-- R30, R32: no location of the map is an alias of another, and each stands at its offset. -/
def Obligations.LocationsHaveOneOffset : Prop :=
  ∀ (p : Params) off, p.Legal → AccessOk off → locate p off ≠ .unmapped → offsetOf (locate p off) = some off

/-! The host's reads. -/

/-- R88: no read has a side effect: it puts a word on the bus and nothing of the FRCE changes. -/
def Obligations.ReadsHaveNoSideEffect : Prop :=
  ∀ s off, AccessOk off →
    ∃ t, hostMove (.read off) s = .next t ∧ t = { s with rdata := t.rdata, draws := t.draws }

/-- R47, R84: an idle read of word k of the output window shows, in byte m, byte 4k+m of OUTBUF where that byte is below
OUT_LEN and holds a value. -/
def Obligations.OutputWindowShowsOutput : Prop :=
  ∀ s k m b, s.cfg.Legal → s.busy = false → 4 * k < s.cfg.nOut → m < 4 → 4 * k + m < s.outLen.toNat →
    Memory.read s.outbuf (4 * k + m) = some b →
    ∃ t, hostMove (.read (0x4000 + 4 * k)) s = .next t ∧ t.rdata.extractLsb' (8 * m) 8 = b

/-- R38, R42, R43: what idle reads of the read-only registers show. -/
def Obligations.IdleReadsShowResultRegisters : Prop :=
  ∀ s, s.busy = false →
    (∃ t, hostMove (.read 0x00C) s = .next t ∧ t.rdata = s.errCode.zeroExtend 32) ∧
    (∃ t, hostMove (.read 0x020) s = .next t ∧ t.rdata = s.outLen.zeroExtend 32) ∧
    (∃ t, hostMove (.read 0x024) s = .next t ∧ t.rdata = s.ksRounds.zeroExtend 32)

/-- R274: while busy STATUS reads BUSY = 1, DONE = 0, ERR = 0, BUSY_WR as set and KEY_VALID as held unless a KEY_EXPAND runs,
ERR_CODE reads 0, CTRL and the input registers read as they are held, INW reads as INBUF holds it, and CMD, KEYW and unmapped
offsets read 0. The premise is the machine's invariant. -/
def Obligations.BusyReads : Prop :=
  ∀ s, s.Inv → s.busy = true →
    (∃ t, hostMove (.read 0x004) s = .next t ∧ t.rdata.getLsbD 0 = true ∧ t.rdata.getLsbD 1 = false ∧
      t.rdata.getLsbD 3 = false ∧ t.rdata.getLsbD 4 = s.busyWr ∧
      ((∀ l, s.pending = some l → decode l.word ≠ .keyExpand) → t.rdata.getLsbD 2 = s.keyValid)) ∧
    (∃ t, hostMove (.read 0x000) s = .next t ∧
      ∀ n, t.rdata.getLsbD n = if n = 0 then s.ie else if n = 1 then s.keychk else false) ∧
    (∃ t, hostMove (.read 0x00C) s = .next t ∧ t.rdata = 0) ∧
    (∃ t, hostMove (.read 0x010) s = .next t ∧ t.rdata = s.rounds.zeroExtend 32) ∧
    (∃ t, hostMove (.read 0x014) s = .next t ∧ t.rdata = s.keyLen.zeroExtend 32) ∧
    (∃ t, hostMove (.read 0x018) s = .next t ∧ t.rdata = s.ivLen.zeroExtend 32) ∧
    (∃ t, hostMove (.read 0x01C) s = .next t ∧ t.rdata = s.inLen.zeroExtend 32) ∧
    (∃ t, hostMove (.read 0x030) s = .next t ∧ t.rdata = s.iv0) ∧
    (∃ t, hostMove (.read 0x034) s = .next t ∧ t.rdata = s.iv1) ∧
    (∃ t, hostMove (.read 0x038) s = .next t ∧ t.rdata = s.iv2) ∧
    (∃ t, hostMove (.read 0x03C) s = .next t ∧ t.rdata = s.iv3) ∧
    (∀ k m b, 4 * k < s.cfg.nBuf → m < 4 → Memory.read s.inbuf (4 * k + m) = some b →
      ∃ t, hostMove (.read (0x2000 + 4 * k)) s = .next t ∧ t.rdata.extractLsb' (8 * m) 8 = b) ∧
    (∀ k, 4 * k < s.cfg.keyMaxBytes → ∃ t, hostMove (.read (0x100 + 4 * k)) s = .next t ∧ t.rdata = 0) ∧
    (∃ t, hostMove (.read 0x008) s = .next t ∧ t.rdata = 0) ∧
    (∀ off, AccessOk off → locate s.cfg off = .unmapped → ∃ t, hostMove (.read off) s = .next t ∧ t.rdata = 0)

/-! Reset, interrupt, flags over time. -/

/-- R330, R331: from any state, busy or not, both reset sources give the reset values of every register, no pending
command, no irq, no byte of a buffer or word of S with a known value, and free values in the working registers. -/
def Obligations.BothResetsGiveResetValues : Prop :=
  ∀ s v, v.getLsbD 2 = true → ∃ t,
    hostMove .reset s = .next t ∧ hostMove (.write 0x000 v) s = .next t ∧
    t.ie = false ∧ t.keychk = false ∧ t.busy = false ∧ t.done = false ∧ t.keyValid = false ∧ errFlag t = false ∧
    t.busyWr = false ∧ t.errCode = 0 ∧ t.rounds = 20 ∧ t.keyLen = 0 ∧ t.ivLen = 0 ∧ t.inLen = 0 ∧ t.outLen = 0 ∧
    t.ksRounds = 0 ∧ t.iv0 = 0 ∧ t.iv1 = 0 ∧ t.iv2 = 0 ∧ t.iv3 = 0 ∧ t.pending = none ∧ irq t = false ∧
    (∀ a, Memory.read t.keybuf a = none ∧ Memory.read t.inbuf a = none ∧ Memory.read t.outbuf a = none) ∧
    t.sched = [] ∧ t.hidden = Config.freeHidden s.draws ∧ t.cfg = s.cfg

/-- R331, R333: the values of the state after reset: idle, no key, interrupt disabled, ROUNDS = 20. -/
def Obligations.ResetStateValues : Prop :=
  State.reset.ie = false ∧ State.reset.keychk = false ∧ State.reset.busy = false ∧ State.reset.done = false ∧
  State.reset.keyValid = false ∧ errFlag State.reset = false ∧ State.reset.busyWr = false ∧ State.reset.errCode = 0 ∧
  State.reset.rounds = 20 ∧ State.reset.keyLen = 0 ∧ State.reset.ivLen = 0 ∧ State.reset.inLen = 0 ∧
  State.reset.outLen = 0 ∧ State.reset.ksRounds = 0 ∧ State.reset.iv0 = 0 ∧ State.reset.iv1 = 0 ∧
  State.reset.iv2 = 0 ∧ State.reset.iv3 = 0 ∧ State.reset.pending = none ∧ irq State.reset = false

/-- R305, R306: irq is the level of IE and DONE; setting IE while DONE is set raises it at once, clearing IE drops it without
clearing DONE; writing 1 to bit 1 of STATUS and the accept of a command clear the pending state; every completion raises it
exactly when IE is set. -/
def Obligations.InterruptIsLevelOfDone : Prop :=
  (∀ s, irq s = (s.ie && s.done)) ∧
  (∀ s, ∃ t, hostMove (.write 0x000 0x00000001) s = .next t ∧ irq t = s.done ∧ t.done = s.done) ∧
  (∀ s, ∃ t, hostMove (.write 0x000 0x00000000) s = .next t ∧ irq t = false ∧ t.done = s.done) ∧
  (∀ s v, v.getLsbD 1 = true → ∃ t, hostMove (.write 0x004 v) s = .next t ∧ irq t = false ∧ t.done = false ∧ t.ie = s.ie) ∧
  (∀ s w, s.busy = false → ∃ t, hostMove (.write 0x008 w) s = .next t ∧ irq t = false ∧ t.done = false ∧ t.ie = s.ie) ∧
  (∀ i s, ∃ t, exec i s = .next t ∧ irq t = s.ie ∧ t.done = true)

/-- R280: DONE stays 1 over every step but an acknowledgement, the accept of a command, and a reset. -/
def Obligations.DoneStaysUntilAcknowledged : Prop :=
  ∀ s t, step s = .next t → s.done = true →
    t.done = true ∨
    ∃ es, (∃ v, s.script = .host (.write (s.cfg.base + 0x004) v) :: es ∧ v.getLsbD 1 = true) ∨
      (∃ w, s.script = .host (.write (s.cfg.base + 0x008) w) :: es ∧ s.busy = false) ∨
      (∃ v, s.script = .host (.write (s.cfg.base + 0x000) v) :: es ∧ v.getLsbD 2 = true) ∨
      s.script = .host .reset :: es

/-! Commands: NOP, illegal words, KEY_EXPAND. -/

/-- R278: NOP completes, which raises irq when IE is set, and changes nothing else. -/
def Obligations.NopOnlyCompletes : Prop :=
  decode 0x00000000 = .nop ∧
  ∀ s, ∃ t, exec .nop s = .next t ∧ Ended 0 t ∧ irq t = s.ie ∧ InputsKept s t ∧ ScheduleKept s t ∧ OutputKept s t

/-- R279, R112: every word with a bit of 31:4 set, and the words 0xA to 0xF, complete with ILLEGAL_CMD and change nothing else,
OUT_LEN and OUTBUF included. -/
def Obligations.IllegalWordsCompleteWithIllegalCmd : Prop :=
  (∀ (w : Word) s, w.extractLsb' 4 28 ≠ 0 ∨ (0xA ≤ w.toNat ∧ w.toNat ≤ 0xF) →
    ∃ t, exec (decode w) s = .next t ∧ Ended 0x1 t ∧ errFlag t = true ∧ InputsKept s t ∧ ScheduleKept s t ∧ OutputKept s t) ∧
  (∀ low s, ∃ t, exec (.illegalAB low) s = .next t ∧ Ended 0x1 t ∧ InputsKept s t ∧ ScheduleKept s t ∧ OutputKept s t) ∧
  (∀ low s, ∃ t, exec (.illegalCF low) s = .next t ∧ Ended 0x1 t ∧ InputsKept s t ∧ ScheduleKept s t ∧ OutputKept s t) ∧
  (∀ rsv op s, ∃ t, exec (.illegalRsv rsv op) s = .next t ∧
    Ended 0x1 t ∧ InputsKept s t ∧ ScheduleKept s t ∧ OutputKept s t)

/-- R170, R177: where no check fails KEY_EXPAND commits the expanded schedule, KS_ROUNDS and KEY_VALID, and completes; its
checks fail in their order, and then no part of S, KS_ROUNDS or KEY_VALID changes. Nothing else changes. -/
def Obligations.KeyExpandCommitsSchedule : Prop :=
  ∀ s,
    (1 ≤ s.rounds.toNat → s.rounds.toNat ≤ s.cfg.rMax → s.keyLen.toNat ≤ s.cfg.keyMaxBytes →
      (s.keyLen.toNat = 0 → keychkOp s = false) →
      ∃ t, exec .keyExpand s = .next t ∧
        t.sched = expand (memRead .keybuf s.keybuf s.epoch 0 s.keyLen.toNat) s.rounds.toNat ∧
        t.sched.length = 2 * (s.rounds.toNat + 2) ∧
        t.ksRounds = s.rounds ∧ t.keyValid = true ∧ Ended 0 t ∧ InputsKept s t ∧ OutputKept s t) ∧
    (∀ code,
      ((s.rounds.toNat = 0 ∨ s.cfg.rMax < s.rounds.toNat) ∧ code = 0x7) ∨
      ((1 ≤ s.rounds.toNat ∧ s.rounds.toNat ≤ s.cfg.rMax) ∧ s.cfg.keyMaxBytes < s.keyLen.toNat ∧ code = 0x8) ∨
      ((1 ≤ s.rounds.toNat ∧ s.rounds.toNat ≤ s.cfg.rMax) ∧ s.keyLen.toNat ≤ s.cfg.keyMaxBytes ∧
        s.keyLen.toNat = 0 ∧ keychkOp s = true ∧ code = 0x6) →
      ∃ t, exec .keyExpand s = .next t ∧ Ended code t ∧ InputsKept s t ∧ ScheduleKept s t ∧ OutputKept s t)

/-- R280, R42: OUT_LEN and OUTBUF stay as they are over every step but the completion of a data command and a reset. -/
def Obligations.OutputStaysUntilDataCommandOrReset : Prop :=
  ∀ s t, step s = .next t →
    OutputKept s t ∨
    (∃ l, s.pending = some l ∧ (decode l.word).isData = true ∧ t.done = true) ∨
    (∃ es, s.script = .host .reset :: es ∨ ∃ v, s.script = .host (.write (s.cfg.base + 0x000) v) :: es ∧ v.getLsbD 2 = true)

/-- R178: the schedule is a function of the key bytes and the round count alone; KEYBUF bytes at indices KEY_LEN and above do
not affect the result, and KEYBUF is not written. -/
def Obligations.KeyBytesBeyondLengthDoNotMatter : Prop :=
  (∀ s s' t t', s'.rounds = s.rounds → s'.keyLen = s.keyLen →
    (∀ a, a < s.keyLen.toNat → ∃ b, Memory.read s.keybuf a = some b ∧ Memory.read s'.keybuf a = some b) →
    exec .keyExpand s = .next t → exec .keyExpand s' = .next t' → t.errCode = 0 → t'.errCode = 0 →
    t'.sched = t.sched ∧ t'.ksRounds = t.ksRounds) ∧
  (∀ s kb, (∀ a, a < s.keyLen.toNat → Memory.read kb a = Memory.read s.keybuf a) →
    ∃ t u, exec .keyExpand s = .next t ∧ exec .keyExpand { s with keybuf := kb } = .next u ∧
      u.sched = t.sched ∧ u.ksRounds = t.ksRounds ∧ u.keyValid = t.keyValid ∧ u.errCode = t.errCode ∧
      t.keybuf = s.keybuf ∧ u.keybuf = kb)

/-! Commands: the data commands. -/

/-- R245, R246: ENC_ECB and DEC_ECB, their checks in order; where none fails they write their output and OUT_LEN, complete, and
change nothing else. -/
def Obligations.EcbCommandsSucceed : Prop :=
  ∀ s, s.cfg.Legal →
    (s.keyValid = false → FailsWith .encEcb .noKey s ∧ FailsWith .decEcb .noKey s) ∧
    (s.keyValid = true → s.cfg.nBuf < s.inLen.toNat → FailsWith .encEcb .lengthRange s ∧ FailsWith .decEcb .lengthRange s) ∧
    (s.keyValid = true → s.inLen.toNat ≤ s.cfg.nBuf →
      SucceedsWith .encEcb (ecbEnc (schedWord s) s.ksRounds.toNat (inputBytes s)) s ∧
      (s.inLen.toNat = 0 ∨ s.inLen.toNat % 16 ≠ 0 → FailsWith .decEcb .invalidInputLength s) ∧
      (s.inLen.toNat ≠ 0 → s.inLen.toNat % 16 = 0 →
        SucceedsWith .decEcb (ecbDec (schedWord s) s.ksRounds.toNat (inputBytes s)) s))

/-- R247, R248: ENC_CBC and DEC_CBC, their checks in order; where none fails they write their output and OUT_LEN, complete, and
change nothing else, the IV registers included. -/
def Obligations.CbcCommandsSucceed : Prop :=
  ∀ s, s.cfg.Legal →
    (s.keyValid = false → FailsWith .encCbc .noKey s ∧ FailsWith .decCbc .noKey s) ∧
    (s.keyValid = true → s.cfg.nBuf < s.inLen.toNat → FailsWith .encCbc .lengthRange s ∧ FailsWith .decCbc .lengthRange s) ∧
    (s.keyValid = true → s.inLen.toNat ≤ s.cfg.nBuf → s.ivLen.toNat ≠ 16 →
      FailsWith .encCbc .invalidIvLength s ∧ FailsWith .decCbc .invalidIvLength s) ∧
    (s.keyValid = true → s.inLen.toNat ≤ s.cfg.nBuf → s.ivLen.toNat = 16 →
      SucceedsWith .encCbc (cbcEnc (schedWord s) s.ksRounds.toNat (inputBytes s) (ivBytes s)) s ∧
      (s.inLen.toNat = 0 ∨ s.inLen.toNat % 16 ≠ 0 → FailsWith .decCbc .invalidInputLength s) ∧
      (s.inLen.toNat ≠ 0 → s.inLen.toNat % 16 = 0 →
        SucceedsWith .decCbc (cbcDec (schedWord s) s.ksRounds.toNat (inputBytes s) (ivBytes s)) s))

/-- R196, R197: ENC_BLOCK and DEC_BLOCK, their checks in order; where none fails they transform the one block, write its 16 bytes
and OUT_LEN, complete, and change nothing else. -/
def Obligations.BlockCommandsSucceed : Prop :=
  ∀ s, s.cfg.Legal →
    (s.keyValid = false → FailsWith .encBlock .noKey s ∧ FailsWith .decBlock .noKey s) ∧
    (s.keyValid = true → s.cfg.nBuf < s.inLen.toNat →
      FailsWith .encBlock .lengthRange s ∧ FailsWith .decBlock .lengthRange s) ∧
    (s.keyValid = true → s.inLen.toNat ≤ s.cfg.nBuf → s.inLen.toNat ≠ 16 →
      FailsWith .encBlock .invalidBlockSize s ∧ FailsWith .decBlock .invalidBlockSize s) ∧
    (s.keyValid = true → s.inLen.toNat = 16 →
      SucceedsWith .encBlock (encBlock (schedWord s) s.ksRounds.toNat (inputBytes s)) s ∧
      SucceedsWith .decBlock (decBlock (schedWord s) s.ksRounds.toNat (inputBytes s)) s ∧
      (encBlock (schedWord s) s.ksRounds.toNat (inputBytes s)).length = 16 ∧
      (decBlock (schedWord s) s.ksRounds.toNat (inputBytes s)).length = 16)

/-- R224, R225: PAD and UNPAD need no key; their checks in order; where none fails they write their output and OUT_LEN, complete,
and change nothing else. -/
def Obligations.PaddingCommandsSucceed : Prop :=
  ∀ s, s.cfg.Legal →
    (s.cfg.nBuf < s.inLen.toNat → FailsWith .pad .lengthRange s ∧ FailsWith .unpad .lengthRange s) ∧
    (s.inLen.toNat ≤ s.cfg.nBuf →
      SucceedsWith .pad (pad (inputBytes s)) s ∧
      (s.inLen.toNat = 0 ∨ s.inLen.toNat % 16 ≠ 0 → FailsWith .unpad .invalidInputLength s) ∧
      (s.inLen.toNat ≠ 0 → s.inLen.toNat % 16 = 0 → SucceedsWith .unpad (unpad (inputBytes s)) s))

/-- R303: every command reports the first of its errors in this order, and checks nothing after it. -/
def Obligations.ErrorsInPriority : Prop :=
  ∀ s,
    (∀ w : Word, 10 ≤ w.toNat → ∃ t, exec (decode w) s = .next t ∧ t.errCode = errCodeOf .illegalCmd) ∧
    (∃ t, exec .keyExpand s = .next t ∧ t.errCode =
      if s.rounds.toNat = 0 ∨ s.cfg.rMax < s.rounds.toNat then errCodeOf .invalidRounds
      else if s.cfg.keyMaxBytes < s.keyLen.toNat then errCodeOf .keyTooLong
      else if s.keyLen.toNat = 0 ∧ keychkOp s = true then errCodeOf .emptyKey else 0) ∧
    (∀ i, i.isData = true → ∃ t, exec i s = .next t ∧ t.errCode =
      if i.isCipher = true ∧ s.keyValid = false then errCodeOf .noKey
      else if s.cfg.nBuf < s.inLen.toNat then errCodeOf .lengthRange
      else if (i = .encCbc ∨ i = .decCbc) ∧ s.ivLen.toNat ≠ 16 then errCodeOf .invalidIvLength
      else if (i = .decEcb ∨ i = .decCbc ∨ i = .unpad) ∧ (s.inLen.toNat = 0 ∨ s.inLen.toNat % 16 ≠ 0) then
        errCodeOf .invalidInputLength
      else if (i = .encBlock ∨ i = .decBlock) ∧ s.inLen.toNat ≠ 16 then errCodeOf .invalidBlockSize else 0)

/-- R119: the error codes. -/
def Obligations.ErrorCodeTable : Prop :=
  errCodeOf .illegalCmd = 0x1 ∧ errCodeOf .noKey = 0x2 ∧ errCodeOf .invalidBlockSize = 0x3 ∧
  errCodeOf .invalidIvLength = 0x4 ∧ errCodeOf .invalidInputLength = 0x5 ∧ errCodeOf .emptyKey = 0x6 ∧
  errCodeOf .invalidRounds = 0x7 ∧ errCodeOf .keyTooLong = 0x8 ∧ errCodeOf .lengthRange = 0x9

/-- R252: the output lengths of the four mode commands; `v` is the last decrypted byte. The CBC commands need IV_LEN = 16, the ECB
commands do not look at it. -/
def Obligations.ModeOutputLengths : Prop :=
  ∀ s, s.cfg.Legal → s.keyValid = true → s.inLen.toNat ≤ s.cfg.nBuf →
    (∀ i, i = .encEcb ∨ (i = .encCbc ∧ s.ivLen.toNat = 16) → ∃ t, exec i s = .next t ∧ t.errCode = 0 ∧
      t.outLen.toNat = s.inLen.toNat + 16 - s.inLen.toNat % 16 ∧ 16 ≤ t.outLen.toNat ∧ t.outLen.toNat ≤ s.cfg.nOut) ∧
    (s.inLen.toNat ≠ 0 → s.inLen.toNat % 16 = 0 →
      ∀ i q, (i = .decEcb ∧ q = (blocks (inputBytes s)).flatMap (decBlock (schedWord s) s.ksRounds.toNat)) ∨
        (i = .decCbc ∧ s.ivLen.toNat = 16 ∧
          q = cbcDecBlocks (schedWord s) s.ksRounds.toNat (ivBytes s) (blocks (inputBytes s))) →
      ∃ t, exec i s = .next t ∧ t.errCode = 0 ∧ s.inLen.toNat - 16 ≤ t.outLen.toNat ∧ t.outLen.toNat ≤ s.inLen.toNat ∧
        ∀ v, q.getLast? = some v → t.outLen.toNat =
          if 1 ≤ v.toNat ∧ v.toNat ≤ 16 then s.inLen.toNat - v.toNat else s.inLen.toNat)

/-- R277, R301, R304: every command, in every state, completes with a code of the error table and keeps its inputs. -/
def Obligations.EveryCommandCompletes : Prop :=
  ∀ i s, ∃ t code, exec i s = .next t ∧ Ended code t ∧ code.toNat ≤ 9 ∧ InputsKept s t

/-- R59, R285: no hidden state reaches a command's result. -/
def Obligations.HiddenStateDoesNotMatter : Prop :=
  ∀ i s h, exec i { s with hidden := h } = exec i s

/-! The datapath functions. -/

/-- R147: the rotate left, its amount taken modulo 32. -/
def Obligations.RotateLeftFormula : Prop :=
  ∀ (a : Word) (n : Nat), (rotl32 a n).toNat =
    if n % 32 = 0 then a.toNat else (a.toNat * 2 ^ (n % 32)) % 2 ^ 32 + a.toNat / 2 ^ (32 - n % 32)

/-- R148: the rotate right, and the law that it undoes the rotate left. -/
def Obligations.RotateRightUndoesRotateLeft : Prop :=
  ∀ (a : Word) (n : Nat), rotr32 a n = rotl32 a (32 - n % 32) ∧ (n % 32 = 0 → rotr32 a n = a) ∧ rotr32 (rotl32 a n) n = a

/-- R141: bytesToWords, word by word, missing high bytes 0. -/
def Obligations.BytesToWordsFormula : Prop :=
  ∀ s : List Byte, (bytesToWords s).length = (s.length + 3) / 4 ∧
    ∀ k, k < (s.length + 3) / 4 → ((bytesToWords s).getD k 0).toNat =
      (s.getD (4 * k) 0).toNat + 256 * (s.getD (4 * k + 1) 0).toNat + 65536 * (s.getD (4 * k + 2) 0).toNat +
        16777216 * (s.getD (4 * k + 3) 0).toNat

/-- R142: wordsToBytes gives the four bytes of each word, low byte first; it undoes bytesToWords exactly on multiples of four, and
else leaves the zero bytes that fill the last word. -/
def Obligations.WordsToBytesUndoesBytesToWords : Prop :=
  (∀ ws : List Word, (wordsToBytes ws).length = 4 * ws.length ∧
    ∀ k m, k < ws.length → m < 4 → (wordsToBytes ws).getD (4 * k + m) 0 = (ws.getD k 0).extractLsb' (8 * m) 8) ∧
  (∀ s : List Byte, wordsToBytes (bytesToWords s) = s ++ List.replicate (4 * ((s.length + 3) / 4) - s.length) 0 ∧
    (wordsToBytes (bytesToWords s) = s ↔ s.length % 4 = 0))

/-- R172: the initial schedule starts at MAGIC_P and is `MAGIC_P + i * MAGIC_Q`, for its `2*(r+2)` words. -/
def Obligations.InitialScheduleIsArithmetic : Prop :=
  ∀ r, (initialSchedule r).length = 2 * (r + 2) ∧
    ∀ i, i < 2 * (r + 2) → (initialSchedule r)[i]? = some (Config.magicP + BitVec.ofNat 32 i * Config.magicQ)

/-- R175: an empty key is one zero word, and a key of one to four zero bytes has the same key word and the same schedule. -/
def Obligations.ShortZeroKeysShareOneSchedule : Prop :=
  keyWords [] = [0] ∧
  ∀ b r, 1 ≤ b → b ≤ 4 → keyWords (List.replicate b 0) = [0] ∧ expand (List.replicate b 0) r = expand [] r

/-- R195: decryption inverts encryption on every 16-byte block, for every schedule and round count, and encryption is a bijection
on 16-byte blocks. -/
def Obligations.DecryptInvertsEncrypt : Prop :=
  ∀ (S : Nat → Word) (r : Nat),
    (∀ x : List Byte, x.length = 16 → (encBlock S r x).length = 16 ∧ decBlock S r (encBlock S r x) = x) ∧
    (∀ y : List Byte, y.length = 16 → (decBlock S r y).length = 16 ∧ encBlock S r (decBlock S r y) = y)

/-- R192: the block transforms read no schedule word at or above `2*(r+2)`. -/
def Obligations.TransformReadsHeldScheduleOnly : Prop :=
  ∀ (S S' : Nat → Word) (r : Nat) (x : List Byte), (∀ i, i < 2 * (r + 2) → S i = S' i) →
    encBlock S r x = encBlock S' r x ∧ decBlock S r x = decBlock S' r x

/-- R223: the length of a padded sequence is the least multiple of 16 above the length, at most N_OUT for an input that fits, and
every added byte is the added count. -/
def Obligations.PadLength : Prop :=
  ∀ s : List Byte, (pad s).length = s.length + (16 - s.length % 16) ∧ (pad s).length % 16 = 0 ∧
    s.length < (pad s).length ∧ (pad s).length ≤ s.length + 16 ∧
    (∀ b ∈ (pad s).drop s.length, b.toNat = 16 - s.length % 16) ∧
    ∀ p : Params, p.Legal → s.length ≤ p.nBuf → (pad s).length ≤ p.nOut

/-- R226: the remover undoes the inserter: the last byte of a padded sequence is a count of 1 to 16, and that many bytes are dropped;
the converse fails. -/
def Obligations.UnpadUndoesPad : Prop :=
  (∀ s : List Byte, unpad (pad s) = s ∧
    ∃ n, 1 ≤ n ∧ n ≤ 16 ∧ (pad s).getLast? = some (BitVec.ofNat 8 n) ∧ (unpad (pad s)).length + n = (pad s).length) ∧
  ∃ s : List Byte, s.length = 16 ∧ pad (unpad s) ≠ s

/-- R221, R222: the remover looks at the last byte only. -/
def Obligations.UnpadLooksAtLastByteOnly : Prop :=
  ∀ (s : List Byte) (v : Byte), 15 ≤ s.length →
    (1 ≤ v.toNat ∧ v.toNat ≤ 16 → unpad (s ++ [v]) = s.take (s.length + 1 - v.toNat)) ∧
    (v.toNat = 0 ∨ 16 < v.toNat → unpad (s ++ [v]) = s ++ [v])

/-- R249: both modes' decryption inverts their encryption, for every schedule, round count, plaintext and 16-byte IV. -/
def Obligations.ModesRoundTrip : Prop :=
  ∀ (S : Nat → Word) (r : Nat) (p iv : List Byte), iv.length = 16 →
    ecbDec S r (ecbEnc S r p) = p ∧ cbcDec S r (cbcEnc S r p iv) iv = p

/-- R250: equal blocks of the padded plaintext give equal blocks of the ECB ciphertext; block k of the CBC ciphertext is the
encryption of the padded block xor the ciphertext block before it, the IV for the first, and equals block m exactly when those
two xors are equal. -/
def Obligations.CiphertextBlocks : Prop :=
  ∀ (S : Nat → Word) (r : Nat) (s iv : List Byte) (k m : Nat), iv.length = 16 →
    16 * k < (pad s).length → 16 * m < (pad s).length →
    let before := fun j => if j = 0 then iv else blk (cbcEnc S r s iv) (j - 1)
    blk (ecbEnc S r s) k = encBlock S r (blk (pad s) k) ∧
    (blk (pad s) k = blk (pad s) m → blk (ecbEnc S r s) k = blk (ecbEnc S r s) m) ∧
    blk (cbcEnc S r s iv) k = encBlock S r (xor16 (blk (pad s) k) (before k)) ∧
    (blk (cbcEnc S r s iv) k = blk (cbcEnc S r s iv) m ↔
      xor16 (blk (pad s) k) (before k) = xor16 (blk (pad s) m) (before m))

/-- R248, R243: a wrong IV corrupts only the first recovered block. -/
def Obligations.WrongIvCorruptsFirstBlockOnly : Prop :=
  ∀ (S : Nat → Word) (r : Nat) (c iv iv' : List Byte), iv.length = 16 → iv'.length = 16 → 16 < c.length →
    c.length % 16 = 0 → (cbcDec S r c iv).drop 16 = (cbcDec S r c iv').drop 16

/-! The whole machine. -/

/-- The invariant holds at reset. -/
def Obligations.InvariantAtReset : Prop := State.reset.Inv

/-- Every step keeps the invariant: BUSY exactly while a command is latched, no reserved error code, a held schedule of
`2*(KS_ROUNDS+2)` words, buffers in canonical form, OUTBUF the bytes below OUT_LEN (R60, R43, R119, R47). -/
def Obligations.EveryStepKeepsInvariant : Prop := ∀ s t, s.Inv → step s = .next t → t.Inv

/-- R51, R35: a step changes the held schedule only when a KEY_EXPAND succeeds, which leaves KEY_VALID set, or at a reset. -/
def Obligations.OnlyKeyExpandAndResetWriteSchedule : Prop :=
  ∀ s t, step s = .next t →
    ScheduleKept s t ∨
    (∃ l, s.pending = some l ∧ decode l.word = .keyExpand ∧ t.keyValid = true ∧ t.done = true ∧ t.errCode = 0) ∨
    (∃ es, s.script = .host .reset :: es ∨ ∃ v, s.script = .host (.write (s.cfg.base + 0x000) v) :: es ∧ v.getLsbD 2 = true)

/-- R281, R92, R273: whatever the host does on the bus while a command runs, short of a reset, the command's result is the one it
would have had at once. -/
def Obligations.HostMovesWhileBusyDoNotChangeResult : Prop :=
  ∀ (ms : List BusMove) (es : List Event) (s t : State) (l : Latch) (i : Instr),
    s.busy = true → s.pending = some l → s.script = ms.map Event.host ++ es → (∀ m ∈ ms, m.NoReset s.cfg) →
    Sys2Proof.core.run ms.length s = .next t →
    ∃ u u', exec i s = .next u ∧ exec i t = .next u' ∧
      u'.errCode = u.errCode ∧ u'.outLen = u.outLen ∧ u'.outbuf = u.outbuf ∧
      u'.sched = u.sched ∧ u'.ksRounds = u.ksRounds ∧ u'.keyValid = u.keyValid

/-- R45, R315: no step but the engine's turn that completes a cipher command lets the key or the schedule reach anything else, the
word a read returns included; host accesses and resets while a cipher command runs are such steps too. -/
def Obligations.KeyIsNotReadable : Prop :=
  ∀ s s' t, SameButKey s s' →
    ((nextTurn s).1 = .engine → ∀ l, s.pending = some l → (decode l.word).isCipher = false) →
    step s = .next t → ∃ t', step s' = .next t' ∧ SameButKey t t'
end

