-- ==== Sys2Proof/Laws/Codec.lean ====
section
/-! SUPPORT. The word codec: a word is its four bytes, and back. -/

namespace Sys2Proof.Machine

theorem toNat_packWord (b0 b1 b2 b3 : Byte) :
    (packWord b0 b1 b2 b3).toNat = b0.toNat + 256 * b1.toNat + 65536 * b2.toNat + 16777216 * b3.toNat := by
  have h0 := b0.isLt
  have h1 := b1.isLt
  have h2 := b2.isLt
  have h3 := b3.isLt
  simp only [packWord, BitVec.toNat_ofNat]
  omega

theorem toNat_byteOf (v : Word) (m : Nat) : (byteOf v m).toNat = v.toNat / 2 ^ (8 * m) % 256 := by
  simp [byteOf, BitVec.extractLsb'_toNat, Nat.shiftRight_eq_div_pow]

@[simp] theorem packWord_byteOf (v : Word) : packWord (byteOf v 0) (byteOf v 1) (byteOf v 2) (byteOf v 3) = v := by
  apply BitVec.eq_of_toNat_eq
  rw [toNat_packWord]
  simp only [toNat_byteOf]
  have := v.isLt
  norm_num
  omega

/-- The four bytes of a packed word. -/
@[simp] theorem bytes4_packWord (b0 b1 b2 b3 : Byte) : bytes4 (packWord b0 b1 b2 b3) = [b0, b1, b2, b3] := by
  have h0 := b0.isLt
  have h1 := b1.isLt
  have h2 := b2.isLt
  have h3 := b3.isLt
  simp only [bytes4, List.cons.injEq, and_true]
  refine ⟨?_, ?_, ?_, ?_⟩ <;> apply BitVec.eq_of_toNat_eq <;> rw [toNat_byteOf, toNat_packWord] <;> norm_num <;> omega

@[simp] theorem length_bytes4 (v : Word) : (bytes4 v).length = 4 := rfl

@[simp] theorem wordsToBytes_nil : wordsToBytes [] = [] := rfl

@[simp] theorem wordsToBytes_cons (w : Word) (ws : List Word) : wordsToBytes (w :: ws) = bytes4 w ++ wordsToBytes ws := rfl

end Sys2Proof.Machine
end

