-- ==== Sys2Proof/Laws/Memory.lean ====
section
/-! SUPPORT. The laws of a buffer: reading after writing, and the canonical form that every write keeps. -/

namespace Sys2Proof.Machine

@[simp] theorem Memory.read_nil (a : Nat) : Memory.read [] a = none := rfl

@[simp] theorem Memory.read_write_same (m : Memory) (a : Nat) (v : Byte) :
    Memory.read (Memory.write m a v) a = some v := by
  induction m with
  | nil => simp [Memory.write, Memory.read]
  | cons c rest ih =>
    obtain ⟨i, b⟩ := c
    simp only [Memory.write]
    split
    · simp [Memory.read]
    · split
      · simp [Memory.read]
      · rename_i _ h
        simp [Memory.read, h, ih]

theorem Memory.read_write_other (m : Memory) {a b : Nat} (v : Byte) (h : b ≠ a) :
    Memory.read (Memory.write m a v) b = Memory.read m b := by
  induction m with
  | nil => simp [Memory.write, Memory.read, h]
  | cons c rest ih =>
    obtain ⟨i, x⟩ := c
    simp only [Memory.write]
    split
    · simp [Memory.read, h]
    · split
      · rename_i _ e
        subst e
        simp [Memory.read, h]
      · simp only [Memory.read, ih]

theorem Memory.read_writeBytes (vs : List Byte) :
    ∀ (m : Memory) (a b : Nat), Memory.read (Memory.writeBytes m a vs) b =
      if a ≤ b ∧ b < a + vs.length then vs[b - a]? else Memory.read m b := by
  induction vs with
  | nil => intro m a b; simp [Memory.writeBytes]
  | cons v vs ih =>
    intro m a b
    rw [Memory.writeBytes, ih]
    by_cases hb : b = a
    · subst hb
      simp
    · rw [Memory.read_write_other _ _ hb]
      by_cases h : a + 1 ≤ b ∧ b < a + 1 + vs.length
      · obtain ⟨k, rfl⟩ : ∃ k, b = a + 1 + k := ⟨b - (a + 1), by omega⟩
        have e : a + 1 + k - a = k + 1 := by omega
        rw [if_pos h, if_pos (by simp only [List.length_cons]; omega), e]
        simp
      · rw [if_neg h, if_neg (by simp only [List.length_cons]; omega)]

/-- Writing from empty leaves exactly the bytes written. -/
theorem Memory.read_writeBytes_nil (vs : List Byte) (b : Nat) :
    Memory.read (Memory.writeBytes [] 0 vs) b = vs[b]? := by
  rw [Memory.read_writeBytes]
  split
  · rfl
  · simp only [Memory.read_nil]
    rw [List.getElem?_eq_none (by omega)]

theorem Memory.risingFrom_mono {lo lo' size : Nat} (h : lo' ≤ lo) :
    ∀ {m : Memory}, Memory.risingFrom lo size m = true → Memory.risingFrom lo' size m = true
  | [], _ => rfl
  | (i, _) :: rest, hm => by
    simp only [Memory.risingFrom, Bool.and_eq_true, decide_eq_true_eq] at hm ⊢
    exact ⟨⟨by omega, hm.1.2⟩, hm.2⟩

theorem Memory.risingFrom_write {size a : Nat} (v : Byte) (ha : a < size) :
    ∀ {m : Memory} {lo : Nat}, lo ≤ a → Memory.risingFrom lo size m = true →
      Memory.risingFrom lo size (Memory.write m a v) = true
  | [], lo, hlo, _ => by simp [Memory.write, Memory.risingFrom, hlo, ha]
  | (i, b) :: rest, lo, hlo, hm => by
    simp only [Memory.risingFrom, Bool.and_eq_true, decide_eq_true_eq] at hm
    simp only [Memory.write]
    split
    · simp only [Memory.risingFrom, Bool.and_eq_true, decide_eq_true_eq]
      exact ⟨⟨hlo, ha⟩, ⟨by omega, hm.1.2⟩, hm.2⟩
    · split
      · rename_i _ e
        subst e
        simp only [Memory.risingFrom, Bool.and_eq_true, decide_eq_true_eq]
        exact ⟨⟨hlo, ha⟩, hm.2⟩
      · simp only [Memory.risingFrom, Bool.and_eq_true, decide_eq_true_eq]
        exact ⟨hm.1, Memory.risingFrom_write v ha (by omega) hm.2⟩

@[simp] theorem Memory.wf_nil (size : Nat) : Memory.wf size [] = true := rfl

/-- A write inside the buffer keeps the canonical form. -/
theorem Memory.wf_write {size a : Nat} {m : Memory} (v : Byte) (ha : a < size) (h : Memory.wf size m = true) :
    Memory.wf size (Memory.write m a v) = true :=
  Memory.risingFrom_write v ha (Nat.zero_le a) h

/-- Writing consecutive bytes inside the buffer keeps the canonical form. -/
theorem Memory.wf_writeBytes {size : Nat} (vs : List Byte) :
    ∀ {m : Memory} {a : Nat}, a + vs.length ≤ size → Memory.wf size m = true →
      Memory.wf size (Memory.writeBytes m a vs) = true := by
  induction vs with
  | nil => intro m a _ h; exact h
  | cons v vs ih =>
    intro m a ha h
    simp only [List.length_cons] at ha
    exact ih (by omega) (Memory.wf_write v (by omega) h)

theorem Memory.read_below {size : Nat} :
    ∀ {m : Memory} {lo a : Nat}, Memory.risingFrom lo size m = true → a < lo → Memory.read m a = none
  | [], _, _, _, _ => rfl
  | (i, _) :: rest, lo, a, hm, ha => by
    simp only [Memory.risingFrom, Bool.and_eq_true, decide_eq_true_eq] at hm
    have hi : a ≠ i := by omega
    rw [Memory.read, if_neg hi]
    exact Memory.read_below hm.2 (by omega)

theorem Memory.eq_of_read {size : Nat} :
    ∀ {m n : Memory} {lo : Nat}, Memory.risingFrom lo size m = true → Memory.risingFrom lo size n = true →
      (∀ a, Memory.read m a = Memory.read n a) → m = n
  | [], [], _, _, _, _ => rfl
  | [], (i, b) :: _, _, _, _, h => by simpa [Memory.read] using h i
  | (i, b) :: _, [], _, _, _, h => by simpa [Memory.read] using h i
  | (i, b) :: rest, (i', b') :: rest', lo, hm, hn, h => by
    simp only [Memory.risingFrom, Bool.and_eq_true, decide_eq_true_eq] at hm hn
    have key : i = i' := by
      rcases Nat.lt_trichotomy i i' with hlt | heq | hgt
      · have := h i
        rw [Memory.read, if_pos rfl, Memory.read, if_neg (by omega), Memory.read_below hn.2 (by omega)] at this
        cases this
      · exact heq
      · have := h i'
        rw [Memory.read, if_neg (by omega), Memory.read_below hm.2 (by omega), Memory.read, if_pos rfl] at this
        cases this
    subst key
    have hb : b = b' := by simpa [Memory.read] using h i
    subst hb
    have hr : rest = rest' := by
      refine Memory.eq_of_read hm.2 hn.2 fun a => ?_
      by_cases ha : a = i
      · subst ha
        rw [Memory.read_below hm.2 (by omega), Memory.read_below hn.2 (by omega)]
      · have := h a
        rwa [Memory.read, if_neg ha, Memory.read, if_neg ha] at this
    rw [hr]

/-- Buffers in canonical form with equal bytes are equal lists. -/
theorem Memory.ext_of_wf {size : Nat} {m n : Memory} (hm : Memory.wf size m = true) (hn : Memory.wf size n = true)
    (h : ∀ a, Memory.read m a = Memory.read n a) : m = n :=
  Memory.eq_of_read hm hn h

theorem Memory.write_append {a : Nat} (v : Byte) :
    ∀ {m : Memory}, (∀ c ∈ m, c.1 < a) → Memory.write m a v = m ++ [(a, v)]
  | [], _ => rfl
  | (i, b) :: rest, h => by
    have hi : i < a := h (i, b) (by simp)
    rw [Memory.write, if_neg (by omega), if_neg (by omega),
      Memory.write_append v fun c hc => h c (by simp [hc])]
    rfl

theorem Memory.writeBytes_append (vs : List Byte) :
    ∀ {m : Memory} {a : Nat}, (∀ c ∈ m, c.1 < a) →
      (Memory.writeBytes m a vs).map Prod.fst = m.map Prod.fst ++ List.range' a vs.length := by
  induction vs with
  | nil => intro m a _; simp [Memory.writeBytes]
  | cons v vs ih =>
    intro m a h
    rw [Memory.writeBytes, Memory.write_append v h, ih]
    · simp [List.range'_succ]
    · intro c hc
      rcases List.mem_append.mp hc with hc | hc
      · exact Nat.lt_succ_of_lt (h c hc)
      · simp only [List.mem_singleton] at hc
        subst hc
        exact Nat.lt_succ_self a

/-- Writing from empty lists exactly the indices below the length. -/
theorem Memory.indices_writeBytes_nil (vs : List Byte) :
    (Memory.writeBytes [] 0 vs).map Prod.fst = List.range vs.length := by
  rw [Memory.writeBytes_append vs (by simp), List.range_eq_range']
  rfl

@[simp] theorem memRead_length (buf : BufId) (m : Memory) (epoch a n : Nat) : (memRead buf m epoch a n).length = n := by
  simp [memRead]

theorem memRead_congr (buf : BufId) {m m' : Memory} (epoch a n : Nat)
    (h : ∀ k, k < n → Memory.read m (a + k) = Memory.read m' (a + k)) :
    memRead buf m epoch a n = memRead buf m' epoch a n := by
  refine List.map_congr_left fun k hk => ?_
  rw [h k (List.mem_range.mp hk)]

end Sys2Proof.Machine
end

