-- ==== Sys2Proof/Laws/Operands.lean ====
section
/-! SUPPORT. The operands' lengths, and what each check of a command says of the registers. -/

namespace Sys2Proof.Machine

theorem length_inputBytes (s : State) : (inputBytes s).length = s.inLen.toNat := memRead_length ..

theorem length_keyBytes (s : State) : (keyBytes s).length = s.keyLen.toNat := memRead_length ..

theorem length_ivBytes (s : State) : (ivBytes s).length = 16 := rfl

theorem noKey_iff (s : State) : noKey s = true ↔ s.keyValid = false := by unfold noKey; cases s.keyValid <;> simp

theorem noKey_eq_false (s : State) : noKey s = false ↔ s.keyValid = true := by unfold noKey; cases s.keyValid <;> simp

theorem lengthRange_iff (s : State) : lengthRange s = true ↔ s.cfg.nBuf < s.inLen.toNat := decide_eq_true_iff

theorem lengthRange_eq_false (s : State) : lengthRange s = false ↔ s.inLen.toNat ≤ s.cfg.nBuf :=
  decide_eq_false_iff_not.trans Nat.not_lt

theorem badIvLength_iff (s : State) : badIvLength s = true ↔ s.ivLen.toNat ≠ 16 := decide_eq_true_iff

theorem badIvLength_eq_false (s : State) : badIvLength s = false ↔ s.ivLen.toNat = 16 :=
  decide_eq_false_iff_not.trans not_not

theorem badInputLength_iff (s : State) :
    badInputLength s = true ↔ (s.inLen.toNat = 0 ∨ s.inLen.toNat % 16 ≠ 0) := decide_eq_true_iff

theorem badInputLength_eq_false (s : State) :
    badInputLength s = false ↔ (s.inLen.toNat ≠ 0 ∧ s.inLen.toNat % 16 = 0) :=
  decide_eq_false_iff_not.trans (by unfold inLenOp; omega)

theorem badBlockSize_iff (s : State) : badBlockSize s = true ↔ s.inLen.toNat ≠ 16 := decide_eq_true_iff

theorem badBlockSize_eq_false (s : State) : badBlockSize s = false ↔ s.inLen.toNat = 16 :=
  decide_eq_false_iff_not.trans not_not

theorem badRounds_iff (s : State) :
    badRounds s = true ↔ (s.rounds.toNat = 0 ∨ s.cfg.rMax < s.rounds.toNat) := decide_eq_true_iff

theorem badRounds_eq_false (s : State) :
    badRounds s = false ↔ (1 ≤ s.rounds.toNat ∧ s.rounds.toNat ≤ s.cfg.rMax) :=
  decide_eq_false_iff_not.trans (by unfold roundsOp; omega)

theorem keyTooLong_iff (s : State) : keyTooLong s = true ↔ s.cfg.keyMaxBytes < s.keyLen.toNat := decide_eq_true_iff

theorem keyTooLong_eq_false (s : State) : keyTooLong s = false ↔ s.keyLen.toNat ≤ s.cfg.keyMaxBytes :=
  decide_eq_false_iff_not.trans Nat.not_lt

theorem emptyKey_iff (s : State) : emptyKey s = true ↔ (s.keyLen.toNat = 0 ∧ keychkOp s = true) := by
  unfold emptyKey keyLenOp
  simp only [Bool.and_eq_true, decide_eq_true_eq]

theorem emptyKey_eq_false (s : State) : emptyKey s = false ↔ (s.keyLen.toNat = 0 → keychkOp s = false) := by
  rw [← Bool.not_eq_true, emptyKey_iff]
  simp only [not_and, Bool.not_eq_true]

end Sys2Proof.Machine
end

