-- ==== Sys2Proof/Laws/Bytes.lean ====
section
/-! SUPPORT. The small laws of the byte-sequence functions: blocks, xor, padding, the block codec, and the lengths of their results. -/

namespace Sys2Proof.Machine

/-! Blocks of a sequence. -/

theorem blocks_of_short {s : List Byte} (h : s.length < 16) : blocks s = [] := by
  unfold blocks
  rw [Nat.div_eq_of_lt h]
  rfl

theorem blocks_of_long {s : List Byte} (h : 16 ≤ s.length) : blocks s = s.take 16 :: blocks (s.drop 16) := by
  have hl : s.length / 16 = (s.drop 16).length / 16 + 1 := by
    rw [List.length_drop]
    omega
  unfold blocks
  rw [hl, List.range_succ_eq_map, List.map_cons, List.map_map]
  refine congrArg₂ List.cons (by simp [blk]) (List.map_congr_left fun k _ => ?_)
  simp only [Function.comp_apply, blk, List.drop_drop]
  rw [show 16 * k.succ = 16 + 16 * k by omega]

theorem blocks_append {b : List Byte} (h : b.length = 16) (s : List Byte) : blocks (b ++ s) = b :: blocks s := by
  rw [blocks_of_long (by rw [List.length_append]; omega), List.take_append_of_le_length (by omega),
    List.drop_append_of_le_length (by omega), List.take_of_length_le (by omega), List.drop_of_length_le (by omega)]
  rfl

/-- The blocks of blocks put one after another are those blocks. -/
theorem blocks_flatMap {f : List Byte → List Byte} (hf : ∀ x, (f x).length = 16) (bs : List (List Byte)) :
    blocks (bs.flatMap f) = bs.map f := by
  induction bs with
  | nil => exact blocks_of_short (by simp)
  | cons b bs ih => rw [List.flatMap_cons, List.map_cons, blocks_append (hf b), ih]

@[simp] theorem blocks_length (s : List Byte) : (blocks s).length = s.length / 16 := by simp [blocks]

/-- A sequence of whole blocks is its blocks, each of 16 bytes. -/
theorem blocks_whole : ∀ (n : Nat) {s : List Byte}, s.length = 16 * n →
    (blocks s).flatMap id = s ∧ ∀ b ∈ blocks s, b.length = 16
  | 0, s, h => by
    obtain rfl : s = [] := List.length_eq_zero_iff.mp (by omega)
    simp [blocks_of_short]
  | n + 1, s, h => by
    obtain ⟨hj, hb⟩ := blocks_whole n (s := s.drop 16) (by rw [List.length_drop]; omega)
    rw [blocks_of_long (by omega)]
    refine ⟨by simp [hj], ?_⟩
    rintro x hx
    rcases List.mem_cons.mp hx with rfl | hx
    · rw [List.length_take]
      omega
    · exact hb x hx

/-! xor16. -/

theorem xor16_length {x y : List Byte} (hx : x.length = 16) (hy : y.length = 16) : (xor16 x y).length = 16 := by
  simp [xor16, hx, hy]

theorem xor16_xor16 : ∀ {x y : List Byte}, x.length = y.length → xor16 (xor16 x y) y = x
  | [], [], _ => rfl
  | a :: x, b :: y, h => by
    have ih : List.zipWith (· ^^^ ·) (List.zipWith (· ^^^ ·) x y) y = x :=
      xor16_xor16 (x := x) (y := y) (by simpa using h)
    simp only [xor16, List.zipWith_cons_cons, ih, BitVec.xor_assoc, BitVec.xor_self, BitVec.xor_zero]

/-! The block codec. -/

@[simp] theorem splitBlock_joinBlock (b : BlockRegs) : splitBlock (joinBlock b) = b := by
  simp [splitBlock, joinBlock, bytes4, bytesToWords]

@[simp] theorem joinBlock_length (b : BlockRegs) : (joinBlock b).length = 16 := rfl

@[simp] theorem encBlock_length (S : Nat → Word) (r : Nat) (x : List Byte) : (encBlock S r x).length = 16 := rfl

@[simp] theorem decBlock_length (S : Nat → Word) (r : Nat) (x : List Byte) : (decBlock S r x).length = 16 := rfl

/-! Padding. -/

@[simp] theorem unpad_concat (s : List Byte) (v : Byte) :
    unpad (s ++ [v]) = if 1 ≤ v.toNat ∧ v.toNat ≤ 16 then (s ++ [v]).take (s.length + 1 - v.toNat) else s ++ [v] := by
  simp [unpad]

theorem unpad_length (s : List Byte) : (unpad s).length ≤ s.length ∧ s.length - 16 ≤ (unpad s).length := by
  unfold unpad
  dsimp only
  split
  · rw [List.length_take]
    omega
  · omega

/-! Lengths of the modes' results and of a schedule. -/

theorem cbcEncBlocks_length (S : Nat → Word) (r : Nat) :
    ∀ (bs : List (List Byte)) (chain : List Byte), (cbcEncBlocks S r chain bs).length = 16 * bs.length
  | [], _ => rfl
  | b :: bs, chain => by
    rw [cbcEncBlocks, List.length_append, encBlock_length, cbcEncBlocks_length S r bs, List.length_cons]
    omega

theorem cbcDecBlocks_length (S : Nat → Word) (r : Nat) :
    ∀ (bs : List (List Byte)) {chain : List Byte}, chain.length = 16 → (∀ b ∈ bs, b.length = 16) →
      (cbcDecBlocks S r chain bs).length = 16 * bs.length
  | [], _, _, _ => rfl
  | b :: bs, chain, h, hb => by
    rw [cbcDecBlocks, List.length_append, xor16_length (decBlock_length S r b) h,
      cbcDecBlocks_length S r bs (hb b (by simp)) (fun y hy => hb y (by simp [hy])), List.length_cons]
    omega

theorem ecbEnc_length (S : Nat → Word) (r : Nat) (s : List Byte) : (ecbEnc S r s).length = 16 * ((pad s).length / 16) := by
  unfold ecbEnc
  rw [List.length_flatMap]
  simp only [encBlock_length, List.map_const', List.sum_replicate, blocks_length, smul_eq_mul]
  omega

theorem cbcEnc_length (S : Nat → Word) (r : Nat) (s iv : List Byte) :
    (cbcEnc S r s iv).length = 16 * ((pad s).length / 16) := by
  rw [cbcEnc, cbcEncBlocks_length, blocks_length]

theorem ecbDec_length (S : Nat → Word) (r : Nat) {c : List Byte} (h : c.length % 16 = 0) :
    (ecbDec S r c).length ≤ c.length ∧ c.length - 16 ≤ (ecbDec S r c).length := by
  have hl : ((blocks c).flatMap (decBlock S r)).length = c.length := by
    rw [List.length_flatMap]
    simp only [decBlock_length, List.map_const', List.sum_replicate, blocks_length, smul_eq_mul]
    omega
  have hu := unpad_length ((blocks c).flatMap (decBlock S r))
  rwa [hl] at hu

theorem cbcDec_length (S : Nat → Word) (r : Nat) {c iv : List Byte} (hi : iv.length = 16) (h : c.length % 16 = 0) :
    (cbcDec S r c iv).length ≤ c.length ∧ c.length - 16 ≤ (cbcDec S r c iv).length := by
  have hl : (cbcDecBlocks S r iv (blocks c)).length = c.length := by
    rw [cbcDecBlocks_length S r _ hi (blocks_whole (c.length / 16) (by omega)).2, blocks_length]
    omega
  have hu := unpad_length (cbcDecBlocks S r iv (blocks c))
  rwa [hl] at hu

theorem initialFrom_length : ∀ (n : Nat) (x : Word), (initialFrom n x).length = n
  | 0, _ => rfl
  | n + 1, x => by rw [initialFrom, List.length_cons, initialFrom_length n]

theorem mixSteps_length (T c : Nat) : ∀ (n : Nat) (m : MixRegs), (mixSteps T c n m).S.length = m.S.length
  | 0, _ => rfl
  | n + 1, m => by
    rw [mixSteps, mixSteps_length T c n]
    simp [mixStep]

theorem expand_length (key : List Byte) (r : Nat) : (expand key r).length = schedLen r := by
  unfold expand mixed
  rw [mixSteps_length]
  exact initialFrom_length _ _

end Sys2Proof.Machine
end

