-- ==== Sys2Proof/Laws/State.lean ====
section
/-! SUPPORT. What each named update of State does to each field: one lemma a field, so that no proof unfolds a record update. -/

namespace Sys2Proof.Machine

variable (s : State)

/-! `memWriteOut`. -/

@[simp] theorem memWriteOut_cfg (a : Nat) (v : List Byte) : (memWriteOut a v s).cfg = s.cfg := rfl
@[simp] theorem memWriteOut_ie (a : Nat) (v : List Byte) : (memWriteOut a v s).ie = s.ie := rfl
@[simp] theorem memWriteOut_keychk (a : Nat) (v : List Byte) : (memWriteOut a v s).keychk = s.keychk := rfl
@[simp] theorem memWriteOut_busy (a : Nat) (v : List Byte) : (memWriteOut a v s).busy = s.busy := rfl
@[simp] theorem memWriteOut_done (a : Nat) (v : List Byte) : (memWriteOut a v s).done = s.done := rfl
@[simp] theorem memWriteOut_keyValid (a : Nat) (v : List Byte) : (memWriteOut a v s).keyValid = s.keyValid := rfl
@[simp] theorem memWriteOut_busyWr (a : Nat) (v : List Byte) : (memWriteOut a v s).busyWr = s.busyWr := rfl
@[simp] theorem memWriteOut_errCode (a : Nat) (v : List Byte) : (memWriteOut a v s).errCode = s.errCode := rfl
@[simp] theorem memWriteOut_rounds (a : Nat) (v : List Byte) : (memWriteOut a v s).rounds = s.rounds := rfl
@[simp] theorem memWriteOut_keyLen (a : Nat) (v : List Byte) : (memWriteOut a v s).keyLen = s.keyLen := rfl
@[simp] theorem memWriteOut_ivLen (a : Nat) (v : List Byte) : (memWriteOut a v s).ivLen = s.ivLen := rfl
@[simp] theorem memWriteOut_inLen (a : Nat) (v : List Byte) : (memWriteOut a v s).inLen = s.inLen := rfl
@[simp] theorem memWriteOut_outLen (a : Nat) (v : List Byte) : (memWriteOut a v s).outLen = s.outLen := rfl
@[simp] theorem memWriteOut_ksRounds (a : Nat) (v : List Byte) : (memWriteOut a v s).ksRounds = s.ksRounds := rfl
@[simp] theorem memWriteOut_iv0 (a : Nat) (v : List Byte) : (memWriteOut a v s).iv0 = s.iv0 := rfl
@[simp] theorem memWriteOut_iv1 (a : Nat) (v : List Byte) : (memWriteOut a v s).iv1 = s.iv1 := rfl
@[simp] theorem memWriteOut_iv2 (a : Nat) (v : List Byte) : (memWriteOut a v s).iv2 = s.iv2 := rfl
@[simp] theorem memWriteOut_iv3 (a : Nat) (v : List Byte) : (memWriteOut a v s).iv3 = s.iv3 := rfl
@[simp] theorem memWriteOut_keybuf (a : Nat) (v : List Byte) : (memWriteOut a v s).keybuf = s.keybuf := rfl
@[simp] theorem memWriteOut_inbuf (a : Nat) (v : List Byte) : (memWriteOut a v s).inbuf = s.inbuf := rfl
@[simp] theorem memWriteOut_outbuf (a : Nat) (v : List Byte) : (memWriteOut a v s).outbuf = Memory.writeBytes s.outbuf a v := rfl
@[simp] theorem memWriteOut_sched (a : Nat) (v : List Byte) : (memWriteOut a v s).sched = s.sched := rfl
@[simp] theorem memWriteOut_pending (a : Nat) (v : List Byte) : (memWriteOut a v s).pending = s.pending := rfl
@[simp] theorem memWriteOut_hidden (a : Nat) (v : List Byte) : (memWriteOut a v s).hidden = s.hidden := rfl
@[simp] theorem memWriteOut_script (a : Nat) (v : List Byte) : (memWriteOut a v s).script = s.script := rfl
@[simp] theorem memWriteOut_rdata (a : Nat) (v : List Byte) : (memWriteOut a v s).rdata = s.rdata := rfl
@[simp] theorem memWriteOut_draws (a : Nat) (v : List Byte) : (memWriteOut a v s).draws = s.draws := rfl
@[simp] theorem memWriteOut_epoch (a : Nat) (v : List Byte) : (memWriteOut a v s).epoch = s.epoch := rfl

/-! `forgetOutput`. -/

@[simp] theorem forgetOutput_cfg : (forgetOutput s).cfg = s.cfg := rfl
@[simp] theorem forgetOutput_ie : (forgetOutput s).ie = s.ie := rfl
@[simp] theorem forgetOutput_keychk : (forgetOutput s).keychk = s.keychk := rfl
@[simp] theorem forgetOutput_busy : (forgetOutput s).busy = s.busy := rfl
@[simp] theorem forgetOutput_done : (forgetOutput s).done = s.done := rfl
@[simp] theorem forgetOutput_keyValid : (forgetOutput s).keyValid = s.keyValid := rfl
@[simp] theorem forgetOutput_busyWr : (forgetOutput s).busyWr = s.busyWr := rfl
@[simp] theorem forgetOutput_errCode : (forgetOutput s).errCode = s.errCode := rfl
@[simp] theorem forgetOutput_rounds : (forgetOutput s).rounds = s.rounds := rfl
@[simp] theorem forgetOutput_keyLen : (forgetOutput s).keyLen = s.keyLen := rfl
@[simp] theorem forgetOutput_ivLen : (forgetOutput s).ivLen = s.ivLen := rfl
@[simp] theorem forgetOutput_inLen : (forgetOutput s).inLen = s.inLen := rfl
@[simp] theorem forgetOutput_outLen : (forgetOutput s).outLen = 0 := rfl
@[simp] theorem forgetOutput_ksRounds : (forgetOutput s).ksRounds = s.ksRounds := rfl
@[simp] theorem forgetOutput_iv0 : (forgetOutput s).iv0 = s.iv0 := rfl
@[simp] theorem forgetOutput_iv1 : (forgetOutput s).iv1 = s.iv1 := rfl
@[simp] theorem forgetOutput_iv2 : (forgetOutput s).iv2 = s.iv2 := rfl
@[simp] theorem forgetOutput_iv3 : (forgetOutput s).iv3 = s.iv3 := rfl
@[simp] theorem forgetOutput_keybuf : (forgetOutput s).keybuf = s.keybuf := rfl
@[simp] theorem forgetOutput_inbuf : (forgetOutput s).inbuf = s.inbuf := rfl
@[simp] theorem forgetOutput_outbuf : (forgetOutput s).outbuf = [] := rfl
@[simp] theorem forgetOutput_sched : (forgetOutput s).sched = s.sched := rfl
@[simp] theorem forgetOutput_pending : (forgetOutput s).pending = s.pending := rfl
@[simp] theorem forgetOutput_hidden : (forgetOutput s).hidden = s.hidden := rfl
@[simp] theorem forgetOutput_script : (forgetOutput s).script = s.script := rfl
@[simp] theorem forgetOutput_rdata : (forgetOutput s).rdata = s.rdata := rfl
@[simp] theorem forgetOutput_draws : (forgetOutput s).draws = s.draws := rfl
@[simp] theorem forgetOutput_epoch : (forgetOutput s).epoch = s.epoch := rfl

/-! `writeOutput`. -/

@[simp] theorem writeOutput_cfg (v : List Byte) : (writeOutput v s).cfg = s.cfg := rfl
@[simp] theorem writeOutput_ie (v : List Byte) : (writeOutput v s).ie = s.ie := rfl
@[simp] theorem writeOutput_keychk (v : List Byte) : (writeOutput v s).keychk = s.keychk := rfl
@[simp] theorem writeOutput_busy (v : List Byte) : (writeOutput v s).busy = s.busy := rfl
@[simp] theorem writeOutput_done (v : List Byte) : (writeOutput v s).done = s.done := rfl
@[simp] theorem writeOutput_keyValid (v : List Byte) : (writeOutput v s).keyValid = s.keyValid := rfl
@[simp] theorem writeOutput_busyWr (v : List Byte) : (writeOutput v s).busyWr = s.busyWr := rfl
@[simp] theorem writeOutput_errCode (v : List Byte) : (writeOutput v s).errCode = s.errCode := rfl
@[simp] theorem writeOutput_rounds (v : List Byte) : (writeOutput v s).rounds = s.rounds := rfl
@[simp] theorem writeOutput_keyLen (v : List Byte) : (writeOutput v s).keyLen = s.keyLen := rfl
@[simp] theorem writeOutput_ivLen (v : List Byte) : (writeOutput v s).ivLen = s.ivLen := rfl
@[simp] theorem writeOutput_inLen (v : List Byte) : (writeOutput v s).inLen = s.inLen := rfl
@[simp] theorem writeOutput_outLen (v : List Byte) : (writeOutput v s).outLen = BitVec.ofNat 16 v.length := rfl
@[simp] theorem writeOutput_ksRounds (v : List Byte) : (writeOutput v s).ksRounds = s.ksRounds := rfl
@[simp] theorem writeOutput_iv0 (v : List Byte) : (writeOutput v s).iv0 = s.iv0 := rfl
@[simp] theorem writeOutput_iv1 (v : List Byte) : (writeOutput v s).iv1 = s.iv1 := rfl
@[simp] theorem writeOutput_iv2 (v : List Byte) : (writeOutput v s).iv2 = s.iv2 := rfl
@[simp] theorem writeOutput_iv3 (v : List Byte) : (writeOutput v s).iv3 = s.iv3 := rfl
@[simp] theorem writeOutput_keybuf (v : List Byte) : (writeOutput v s).keybuf = s.keybuf := rfl
@[simp] theorem writeOutput_inbuf (v : List Byte) : (writeOutput v s).inbuf = s.inbuf := rfl
@[simp] theorem writeOutput_outbuf (v : List Byte) : (writeOutput v s).outbuf = Memory.writeBytes [] 0 v := rfl
@[simp] theorem writeOutput_sched (v : List Byte) : (writeOutput v s).sched = s.sched := rfl
@[simp] theorem writeOutput_pending (v : List Byte) : (writeOutput v s).pending = s.pending := rfl
@[simp] theorem writeOutput_hidden (v : List Byte) : (writeOutput v s).hidden = s.hidden := rfl
@[simp] theorem writeOutput_script (v : List Byte) : (writeOutput v s).script = s.script := rfl
@[simp] theorem writeOutput_rdata (v : List Byte) : (writeOutput v s).rdata = s.rdata := rfl
@[simp] theorem writeOutput_draws (v : List Byte) : (writeOutput v s).draws = s.draws := rfl
@[simp] theorem writeOutput_epoch (v : List Byte) : (writeOutput v s).epoch = s.epoch := rfl

/-! `commitSchedule`. -/

@[simp] theorem commitSchedule_cfg (w : List Word) : (commitSchedule w s).cfg = s.cfg := rfl
@[simp] theorem commitSchedule_ie (w : List Word) : (commitSchedule w s).ie = s.ie := rfl
@[simp] theorem commitSchedule_keychk (w : List Word) : (commitSchedule w s).keychk = s.keychk := rfl
@[simp] theorem commitSchedule_busy (w : List Word) : (commitSchedule w s).busy = s.busy := rfl
@[simp] theorem commitSchedule_done (w : List Word) : (commitSchedule w s).done = s.done := rfl
@[simp] theorem commitSchedule_keyValid (w : List Word) : (commitSchedule w s).keyValid = true := rfl
@[simp] theorem commitSchedule_busyWr (w : List Word) : (commitSchedule w s).busyWr = s.busyWr := rfl
@[simp] theorem commitSchedule_errCode (w : List Word) : (commitSchedule w s).errCode = s.errCode := rfl
@[simp] theorem commitSchedule_rounds (w : List Word) : (commitSchedule w s).rounds = s.rounds := rfl
@[simp] theorem commitSchedule_keyLen (w : List Word) : (commitSchedule w s).keyLen = s.keyLen := rfl
@[simp] theorem commitSchedule_ivLen (w : List Word) : (commitSchedule w s).ivLen = s.ivLen := rfl
@[simp] theorem commitSchedule_inLen (w : List Word) : (commitSchedule w s).inLen = s.inLen := rfl
@[simp] theorem commitSchedule_outLen (w : List Word) : (commitSchedule w s).outLen = s.outLen := rfl
@[simp] theorem commitSchedule_ksRounds (w : List Word) : (commitSchedule w s).ksRounds = s.rounds := rfl
@[simp] theorem commitSchedule_iv0 (w : List Word) : (commitSchedule w s).iv0 = s.iv0 := rfl
@[simp] theorem commitSchedule_iv1 (w : List Word) : (commitSchedule w s).iv1 = s.iv1 := rfl
@[simp] theorem commitSchedule_iv2 (w : List Word) : (commitSchedule w s).iv2 = s.iv2 := rfl
@[simp] theorem commitSchedule_iv3 (w : List Word) : (commitSchedule w s).iv3 = s.iv3 := rfl
@[simp] theorem commitSchedule_keybuf (w : List Word) : (commitSchedule w s).keybuf = s.keybuf := rfl
@[simp] theorem commitSchedule_inbuf (w : List Word) : (commitSchedule w s).inbuf = s.inbuf := rfl
@[simp] theorem commitSchedule_outbuf (w : List Word) : (commitSchedule w s).outbuf = s.outbuf := rfl
@[simp] theorem commitSchedule_sched (w : List Word) : (commitSchedule w s).sched = w := rfl
@[simp] theorem commitSchedule_pending (w : List Word) : (commitSchedule w s).pending = s.pending := rfl
@[simp] theorem commitSchedule_hidden (w : List Word) : (commitSchedule w s).hidden = s.hidden := rfl
@[simp] theorem commitSchedule_script (w : List Word) : (commitSchedule w s).script = s.script := rfl
@[simp] theorem commitSchedule_rdata (w : List Word) : (commitSchedule w s).rdata = s.rdata := rfl
@[simp] theorem commitSchedule_draws (w : List Word) : (commitSchedule w s).draws = s.draws := rfl
@[simp] theorem commitSchedule_epoch (w : List Word) : (commitSchedule w s).epoch = s.epoch := rfl

/-! `accept`. -/

@[simp] theorem accept_cfg (w : Word) : (accept w s).cfg = s.cfg := rfl
@[simp] theorem accept_ie (w : Word) : (accept w s).ie = s.ie := rfl
@[simp] theorem accept_keychk (w : Word) : (accept w s).keychk = s.keychk := rfl
@[simp] theorem accept_busy (w : Word) : (accept w s).busy = true := rfl
@[simp] theorem accept_done (w : Word) : (accept w s).done = false := rfl
@[simp] theorem accept_keyValid (w : Word) : (accept w s).keyValid = s.keyValid := rfl
@[simp] theorem accept_busyWr (w : Word) : (accept w s).busyWr = s.busyWr := rfl
@[simp] theorem accept_errCode (w : Word) : (accept w s).errCode = 0 := rfl
@[simp] theorem accept_rounds (w : Word) : (accept w s).rounds = s.rounds := rfl
@[simp] theorem accept_keyLen (w : Word) : (accept w s).keyLen = s.keyLen := rfl
@[simp] theorem accept_ivLen (w : Word) : (accept w s).ivLen = s.ivLen := rfl
@[simp] theorem accept_inLen (w : Word) : (accept w s).inLen = s.inLen := rfl
@[simp] theorem accept_outLen (w : Word) : (accept w s).outLen = s.outLen := rfl
@[simp] theorem accept_ksRounds (w : Word) : (accept w s).ksRounds = s.ksRounds := rfl
@[simp] theorem accept_iv0 (w : Word) : (accept w s).iv0 = s.iv0 := rfl
@[simp] theorem accept_iv1 (w : Word) : (accept w s).iv1 = s.iv1 := rfl
@[simp] theorem accept_iv2 (w : Word) : (accept w s).iv2 = s.iv2 := rfl
@[simp] theorem accept_iv3 (w : Word) : (accept w s).iv3 = s.iv3 := rfl
@[simp] theorem accept_keybuf (w : Word) : (accept w s).keybuf = s.keybuf := rfl
@[simp] theorem accept_inbuf (w : Word) : (accept w s).inbuf = s.inbuf := rfl
@[simp] theorem accept_outbuf (w : Word) : (accept w s).outbuf = s.outbuf := rfl
@[simp] theorem accept_sched (w : Word) : (accept w s).sched = s.sched := rfl
@[simp] theorem accept_pending (w : Word) : (accept w s).pending = some { word := w, keychk := s.keychk } := rfl
@[simp] theorem accept_hidden (w : Word) : (accept w s).hidden = s.hidden := rfl
@[simp] theorem accept_script (w : Word) : (accept w s).script = s.script := rfl
@[simp] theorem accept_rdata (w : Word) : (accept w s).rdata = s.rdata := rfl
@[simp] theorem accept_draws (w : Word) : (accept w s).draws = s.draws := rfl
@[simp] theorem accept_epoch (w : Word) : (accept w s).epoch = s.epoch := rfl

/-! `endCommand`. -/

@[simp] theorem endCommand_cfg (c : BitVec 4) : (endCommand c s).cfg = s.cfg := rfl
@[simp] theorem endCommand_ie (c : BitVec 4) : (endCommand c s).ie = s.ie := rfl
@[simp] theorem endCommand_keychk (c : BitVec 4) : (endCommand c s).keychk = s.keychk := rfl
@[simp] theorem endCommand_busy (c : BitVec 4) : (endCommand c s).busy = false := rfl
@[simp] theorem endCommand_done (c : BitVec 4) : (endCommand c s).done = true := rfl
@[simp] theorem endCommand_keyValid (c : BitVec 4) : (endCommand c s).keyValid = s.keyValid := rfl
@[simp] theorem endCommand_busyWr (c : BitVec 4) : (endCommand c s).busyWr = s.busyWr := rfl
@[simp] theorem endCommand_errCode (c : BitVec 4) : (endCommand c s).errCode = c := rfl
@[simp] theorem endCommand_rounds (c : BitVec 4) : (endCommand c s).rounds = s.rounds := rfl
@[simp] theorem endCommand_keyLen (c : BitVec 4) : (endCommand c s).keyLen = s.keyLen := rfl
@[simp] theorem endCommand_ivLen (c : BitVec 4) : (endCommand c s).ivLen = s.ivLen := rfl
@[simp] theorem endCommand_inLen (c : BitVec 4) : (endCommand c s).inLen = s.inLen := rfl
@[simp] theorem endCommand_outLen (c : BitVec 4) : (endCommand c s).outLen = s.outLen := rfl
@[simp] theorem endCommand_ksRounds (c : BitVec 4) : (endCommand c s).ksRounds = s.ksRounds := rfl
@[simp] theorem endCommand_iv0 (c : BitVec 4) : (endCommand c s).iv0 = s.iv0 := rfl
@[simp] theorem endCommand_iv1 (c : BitVec 4) : (endCommand c s).iv1 = s.iv1 := rfl
@[simp] theorem endCommand_iv2 (c : BitVec 4) : (endCommand c s).iv2 = s.iv2 := rfl
@[simp] theorem endCommand_iv3 (c : BitVec 4) : (endCommand c s).iv3 = s.iv3 := rfl
@[simp] theorem endCommand_keybuf (c : BitVec 4) : (endCommand c s).keybuf = s.keybuf := rfl
@[simp] theorem endCommand_inbuf (c : BitVec 4) : (endCommand c s).inbuf = s.inbuf := rfl
@[simp] theorem endCommand_outbuf (c : BitVec 4) : (endCommand c s).outbuf = s.outbuf := rfl
@[simp] theorem endCommand_sched (c : BitVec 4) : (endCommand c s).sched = s.sched := rfl
@[simp] theorem endCommand_pending (c : BitVec 4) : (endCommand c s).pending = none := rfl
@[simp] theorem endCommand_hidden (c : BitVec 4) : (endCommand c s).hidden = Config.freeHidden s.draws := rfl
@[simp] theorem endCommand_script (c : BitVec 4) : (endCommand c s).script = s.script := rfl
@[simp] theorem endCommand_rdata (c : BitVec 4) : (endCommand c s).rdata = s.rdata := rfl
@[simp] theorem endCommand_draws (c : BitVec 4) : (endCommand c s).draws = s.draws + 1 := rfl
@[simp] theorem endCommand_epoch (c : BitVec 4) : (endCommand c s).epoch = s.epoch := rfl

/-! `complete`. -/

@[simp] theorem complete_cfg : (complete s).cfg = s.cfg := rfl
@[simp] theorem complete_ie : (complete s).ie = s.ie := rfl
@[simp] theorem complete_keychk : (complete s).keychk = s.keychk := rfl
@[simp] theorem complete_busy : (complete s).busy = false := rfl
@[simp] theorem complete_done : (complete s).done = true := rfl
@[simp] theorem complete_keyValid : (complete s).keyValid = s.keyValid := rfl
@[simp] theorem complete_busyWr : (complete s).busyWr = s.busyWr := rfl
@[simp] theorem complete_errCode : (complete s).errCode = 0 := rfl
@[simp] theorem complete_rounds : (complete s).rounds = s.rounds := rfl
@[simp] theorem complete_keyLen : (complete s).keyLen = s.keyLen := rfl
@[simp] theorem complete_ivLen : (complete s).ivLen = s.ivLen := rfl
@[simp] theorem complete_inLen : (complete s).inLen = s.inLen := rfl
@[simp] theorem complete_outLen : (complete s).outLen = s.outLen := rfl
@[simp] theorem complete_ksRounds : (complete s).ksRounds = s.ksRounds := rfl
@[simp] theorem complete_iv0 : (complete s).iv0 = s.iv0 := rfl
@[simp] theorem complete_iv1 : (complete s).iv1 = s.iv1 := rfl
@[simp] theorem complete_iv2 : (complete s).iv2 = s.iv2 := rfl
@[simp] theorem complete_iv3 : (complete s).iv3 = s.iv3 := rfl
@[simp] theorem complete_keybuf : (complete s).keybuf = s.keybuf := rfl
@[simp] theorem complete_inbuf : (complete s).inbuf = s.inbuf := rfl
@[simp] theorem complete_outbuf : (complete s).outbuf = s.outbuf := rfl
@[simp] theorem complete_sched : (complete s).sched = s.sched := rfl
@[simp] theorem complete_pending : (complete s).pending = none := rfl
@[simp] theorem complete_hidden : (complete s).hidden = Config.freeHidden s.draws := rfl
@[simp] theorem complete_script : (complete s).script = s.script := rfl
@[simp] theorem complete_rdata : (complete s).rdata = s.rdata := rfl
@[simp] theorem complete_draws : (complete s).draws = s.draws + 1 := rfl
@[simp] theorem complete_epoch : (complete s).epoch = s.epoch := rfl

/-! `raiseErr`. -/

@[simp] theorem raiseErr_cfg (i : Instr) (e : Err) : (raiseErr i e s).cfg = s.cfg := by unfold raiseErr; cases i.isData <;> rfl
@[simp] theorem raiseErr_ie (i : Instr) (e : Err) : (raiseErr i e s).ie = s.ie := by unfold raiseErr; cases i.isData <;> rfl
@[simp] theorem raiseErr_keychk (i : Instr) (e : Err) : (raiseErr i e s).keychk = s.keychk := by unfold raiseErr; cases i.isData <;> rfl
@[simp] theorem raiseErr_busy (i : Instr) (e : Err) : (raiseErr i e s).busy = false := by unfold raiseErr; cases i.isData <;> rfl
@[simp] theorem raiseErr_done (i : Instr) (e : Err) : (raiseErr i e s).done = true := by unfold raiseErr; cases i.isData <;> rfl
@[simp] theorem raiseErr_keyValid (i : Instr) (e : Err) : (raiseErr i e s).keyValid = s.keyValid := by unfold raiseErr; cases i.isData <;> rfl
@[simp] theorem raiseErr_busyWr (i : Instr) (e : Err) : (raiseErr i e s).busyWr = s.busyWr := by unfold raiseErr; cases i.isData <;> rfl
@[simp] theorem raiseErr_errCode (i : Instr) (e : Err) : (raiseErr i e s).errCode = errCodeOf e := by unfold raiseErr; cases i.isData <;> rfl
@[simp] theorem raiseErr_rounds (i : Instr) (e : Err) : (raiseErr i e s).rounds = s.rounds := by unfold raiseErr; cases i.isData <;> rfl
@[simp] theorem raiseErr_keyLen (i : Instr) (e : Err) : (raiseErr i e s).keyLen = s.keyLen := by unfold raiseErr; cases i.isData <;> rfl
@[simp] theorem raiseErr_ivLen (i : Instr) (e : Err) : (raiseErr i e s).ivLen = s.ivLen := by unfold raiseErr; cases i.isData <;> rfl
@[simp] theorem raiseErr_inLen (i : Instr) (e : Err) : (raiseErr i e s).inLen = s.inLen := by unfold raiseErr; cases i.isData <;> rfl
@[simp] theorem raiseErr_outLen (i : Instr) (e : Err) : (raiseErr i e s).outLen = if i.isData then 0 else s.outLen := by unfold raiseErr; cases i.isData <;> rfl
@[simp] theorem raiseErr_ksRounds (i : Instr) (e : Err) : (raiseErr i e s).ksRounds = s.ksRounds := by unfold raiseErr; cases i.isData <;> rfl
@[simp] theorem raiseErr_iv0 (i : Instr) (e : Err) : (raiseErr i e s).iv0 = s.iv0 := by unfold raiseErr; cases i.isData <;> rfl
@[simp] theorem raiseErr_iv1 (i : Instr) (e : Err) : (raiseErr i e s).iv1 = s.iv1 := by unfold raiseErr; cases i.isData <;> rfl
@[simp] theorem raiseErr_iv2 (i : Instr) (e : Err) : (raiseErr i e s).iv2 = s.iv2 := by unfold raiseErr; cases i.isData <;> rfl
@[simp] theorem raiseErr_iv3 (i : Instr) (e : Err) : (raiseErr i e s).iv3 = s.iv3 := by unfold raiseErr; cases i.isData <;> rfl
@[simp] theorem raiseErr_keybuf (i : Instr) (e : Err) : (raiseErr i e s).keybuf = s.keybuf := by unfold raiseErr; cases i.isData <;> rfl
@[simp] theorem raiseErr_inbuf (i : Instr) (e : Err) : (raiseErr i e s).inbuf = s.inbuf := by unfold raiseErr; cases i.isData <;> rfl
@[simp] theorem raiseErr_outbuf (i : Instr) (e : Err) : (raiseErr i e s).outbuf = if i.isData then [] else s.outbuf := by unfold raiseErr; cases i.isData <;> rfl
@[simp] theorem raiseErr_sched (i : Instr) (e : Err) : (raiseErr i e s).sched = s.sched := by unfold raiseErr; cases i.isData <;> rfl
@[simp] theorem raiseErr_pending (i : Instr) (e : Err) : (raiseErr i e s).pending = none := by unfold raiseErr; cases i.isData <;> rfl
@[simp] theorem raiseErr_hidden (i : Instr) (e : Err) : (raiseErr i e s).hidden = Config.freeHidden s.draws := by unfold raiseErr; cases i.isData <;> rfl
@[simp] theorem raiseErr_script (i : Instr) (e : Err) : (raiseErr i e s).script = s.script := by unfold raiseErr; cases i.isData <;> rfl
@[simp] theorem raiseErr_rdata (i : Instr) (e : Err) : (raiseErr i e s).rdata = s.rdata := by unfold raiseErr; cases i.isData <;> rfl
@[simp] theorem raiseErr_draws (i : Instr) (e : Err) : (raiseErr i e s).draws = s.draws + 1 := by unfold raiseErr; cases i.isData <;> rfl
@[simp] theorem raiseErr_epoch (i : Instr) (e : Err) : (raiseErr i e s).epoch = s.epoch := by unfold raiseErr; cases i.isData <;> rfl

/-! `acknowledge`. -/

@[simp] theorem acknowledge_cfg : (acknowledge s).cfg = s.cfg := rfl
@[simp] theorem acknowledge_ie : (acknowledge s).ie = s.ie := rfl
@[simp] theorem acknowledge_keychk : (acknowledge s).keychk = s.keychk := rfl
@[simp] theorem acknowledge_busy : (acknowledge s).busy = s.busy := rfl
@[simp] theorem acknowledge_done : (acknowledge s).done = false := rfl
@[simp] theorem acknowledge_keyValid : (acknowledge s).keyValid = s.keyValid := rfl
@[simp] theorem acknowledge_busyWr : (acknowledge s).busyWr = s.busyWr := rfl
@[simp] theorem acknowledge_errCode : (acknowledge s).errCode = s.errCode := rfl
@[simp] theorem acknowledge_rounds : (acknowledge s).rounds = s.rounds := rfl
@[simp] theorem acknowledge_keyLen : (acknowledge s).keyLen = s.keyLen := rfl
@[simp] theorem acknowledge_ivLen : (acknowledge s).ivLen = s.ivLen := rfl
@[simp] theorem acknowledge_inLen : (acknowledge s).inLen = s.inLen := rfl
@[simp] theorem acknowledge_outLen : (acknowledge s).outLen = s.outLen := rfl
@[simp] theorem acknowledge_ksRounds : (acknowledge s).ksRounds = s.ksRounds := rfl
@[simp] theorem acknowledge_iv0 : (acknowledge s).iv0 = s.iv0 := rfl
@[simp] theorem acknowledge_iv1 : (acknowledge s).iv1 = s.iv1 := rfl
@[simp] theorem acknowledge_iv2 : (acknowledge s).iv2 = s.iv2 := rfl
@[simp] theorem acknowledge_iv3 : (acknowledge s).iv3 = s.iv3 := rfl
@[simp] theorem acknowledge_keybuf : (acknowledge s).keybuf = s.keybuf := rfl
@[simp] theorem acknowledge_inbuf : (acknowledge s).inbuf = s.inbuf := rfl
@[simp] theorem acknowledge_outbuf : (acknowledge s).outbuf = s.outbuf := rfl
@[simp] theorem acknowledge_sched : (acknowledge s).sched = s.sched := rfl
@[simp] theorem acknowledge_pending : (acknowledge s).pending = s.pending := rfl
@[simp] theorem acknowledge_hidden : (acknowledge s).hidden = s.hidden := rfl
@[simp] theorem acknowledge_script : (acknowledge s).script = s.script := rfl
@[simp] theorem acknowledge_rdata : (acknowledge s).rdata = s.rdata := rfl
@[simp] theorem acknowledge_draws : (acknowledge s).draws = s.draws := rfl
@[simp] theorem acknowledge_epoch : (acknowledge s).epoch = s.epoch := rfl

/-! `resetNow`. -/

@[simp] theorem resetNow_cfg : (resetNow s).cfg = s.cfg := rfl
@[simp] theorem resetNow_ie : (resetNow s).ie = false := rfl
@[simp] theorem resetNow_keychk : (resetNow s).keychk = false := rfl
@[simp] theorem resetNow_busy : (resetNow s).busy = false := rfl
@[simp] theorem resetNow_done : (resetNow s).done = false := rfl
@[simp] theorem resetNow_keyValid : (resetNow s).keyValid = false := rfl
@[simp] theorem resetNow_busyWr : (resetNow s).busyWr = false := rfl
@[simp] theorem resetNow_errCode : (resetNow s).errCode = 0 := rfl
@[simp] theorem resetNow_rounds : (resetNow s).rounds = 20 := rfl
@[simp] theorem resetNow_keyLen : (resetNow s).keyLen = 0 := rfl
@[simp] theorem resetNow_ivLen : (resetNow s).ivLen = 0 := rfl
@[simp] theorem resetNow_inLen : (resetNow s).inLen = 0 := rfl
@[simp] theorem resetNow_outLen : (resetNow s).outLen = 0 := rfl
@[simp] theorem resetNow_ksRounds : (resetNow s).ksRounds = 0 := rfl
@[simp] theorem resetNow_iv0 : (resetNow s).iv0 = 0 := rfl
@[simp] theorem resetNow_iv1 : (resetNow s).iv1 = 0 := rfl
@[simp] theorem resetNow_iv2 : (resetNow s).iv2 = 0 := rfl
@[simp] theorem resetNow_iv3 : (resetNow s).iv3 = 0 := rfl
@[simp] theorem resetNow_keybuf : (resetNow s).keybuf = [] := rfl
@[simp] theorem resetNow_inbuf : (resetNow s).inbuf = [] := rfl
@[simp] theorem resetNow_outbuf : (resetNow s).outbuf = [] := rfl
@[simp] theorem resetNow_sched : (resetNow s).sched = [] := rfl
@[simp] theorem resetNow_pending : (resetNow s).pending = none := rfl
@[simp] theorem resetNow_hidden : (resetNow s).hidden = Config.freeHidden s.draws := rfl
@[simp] theorem resetNow_script : (resetNow s).script = s.script := rfl
@[simp] theorem resetNow_rdata : (resetNow s).rdata = s.rdata := rfl
@[simp] theorem resetNow_draws : (resetNow s).draws = s.draws + 1 := rfl
@[simp] theorem resetNow_epoch : (resetNow s).epoch = s.epoch + 1 := rfl

/-! `clearBusyWr`. -/

@[simp] theorem clearBusyWr_cfg : (clearBusyWr s).cfg = s.cfg := rfl
@[simp] theorem clearBusyWr_ie : (clearBusyWr s).ie = s.ie := rfl
@[simp] theorem clearBusyWr_keychk : (clearBusyWr s).keychk = s.keychk := rfl
@[simp] theorem clearBusyWr_busy : (clearBusyWr s).busy = s.busy := rfl
@[simp] theorem clearBusyWr_done : (clearBusyWr s).done = s.done := rfl
@[simp] theorem clearBusyWr_keyValid : (clearBusyWr s).keyValid = s.keyValid := rfl
@[simp] theorem clearBusyWr_busyWr : (clearBusyWr s).busyWr = false := rfl
@[simp] theorem clearBusyWr_errCode : (clearBusyWr s).errCode = s.errCode := rfl
@[simp] theorem clearBusyWr_rounds : (clearBusyWr s).rounds = s.rounds := rfl
@[simp] theorem clearBusyWr_keyLen : (clearBusyWr s).keyLen = s.keyLen := rfl
@[simp] theorem clearBusyWr_ivLen : (clearBusyWr s).ivLen = s.ivLen := rfl
@[simp] theorem clearBusyWr_inLen : (clearBusyWr s).inLen = s.inLen := rfl
@[simp] theorem clearBusyWr_outLen : (clearBusyWr s).outLen = s.outLen := rfl
@[simp] theorem clearBusyWr_ksRounds : (clearBusyWr s).ksRounds = s.ksRounds := rfl
@[simp] theorem clearBusyWr_iv0 : (clearBusyWr s).iv0 = s.iv0 := rfl
@[simp] theorem clearBusyWr_iv1 : (clearBusyWr s).iv1 = s.iv1 := rfl
@[simp] theorem clearBusyWr_iv2 : (clearBusyWr s).iv2 = s.iv2 := rfl
@[simp] theorem clearBusyWr_iv3 : (clearBusyWr s).iv3 = s.iv3 := rfl
@[simp] theorem clearBusyWr_keybuf : (clearBusyWr s).keybuf = s.keybuf := rfl
@[simp] theorem clearBusyWr_inbuf : (clearBusyWr s).inbuf = s.inbuf := rfl
@[simp] theorem clearBusyWr_outbuf : (clearBusyWr s).outbuf = s.outbuf := rfl
@[simp] theorem clearBusyWr_sched : (clearBusyWr s).sched = s.sched := rfl
@[simp] theorem clearBusyWr_pending : (clearBusyWr s).pending = s.pending := rfl
@[simp] theorem clearBusyWr_hidden : (clearBusyWr s).hidden = s.hidden := rfl
@[simp] theorem clearBusyWr_script : (clearBusyWr s).script = s.script := rfl
@[simp] theorem clearBusyWr_rdata : (clearBusyWr s).rdata = s.rdata := rfl
@[simp] theorem clearBusyWr_draws : (clearBusyWr s).draws = s.draws := rfl
@[simp] theorem clearBusyWr_epoch : (clearBusyWr s).epoch = s.epoch := rfl

/-! `dropWrite`. -/

@[simp] theorem dropWrite_cfg : (dropWrite s).cfg = s.cfg := rfl
@[simp] theorem dropWrite_ie : (dropWrite s).ie = s.ie := rfl
@[simp] theorem dropWrite_keychk : (dropWrite s).keychk = s.keychk := rfl
@[simp] theorem dropWrite_busy : (dropWrite s).busy = s.busy := rfl
@[simp] theorem dropWrite_done : (dropWrite s).done = s.done := rfl
@[simp] theorem dropWrite_keyValid : (dropWrite s).keyValid = s.keyValid := rfl
@[simp] theorem dropWrite_busyWr : (dropWrite s).busyWr = true := rfl
@[simp] theorem dropWrite_errCode : (dropWrite s).errCode = s.errCode := rfl
@[simp] theorem dropWrite_rounds : (dropWrite s).rounds = s.rounds := rfl
@[simp] theorem dropWrite_keyLen : (dropWrite s).keyLen = s.keyLen := rfl
@[simp] theorem dropWrite_ivLen : (dropWrite s).ivLen = s.ivLen := rfl
@[simp] theorem dropWrite_inLen : (dropWrite s).inLen = s.inLen := rfl
@[simp] theorem dropWrite_outLen : (dropWrite s).outLen = s.outLen := rfl
@[simp] theorem dropWrite_ksRounds : (dropWrite s).ksRounds = s.ksRounds := rfl
@[simp] theorem dropWrite_iv0 : (dropWrite s).iv0 = s.iv0 := rfl
@[simp] theorem dropWrite_iv1 : (dropWrite s).iv1 = s.iv1 := rfl
@[simp] theorem dropWrite_iv2 : (dropWrite s).iv2 = s.iv2 := rfl
@[simp] theorem dropWrite_iv3 : (dropWrite s).iv3 = s.iv3 := rfl
@[simp] theorem dropWrite_keybuf : (dropWrite s).keybuf = s.keybuf := rfl
@[simp] theorem dropWrite_inbuf : (dropWrite s).inbuf = s.inbuf := rfl
@[simp] theorem dropWrite_outbuf : (dropWrite s).outbuf = s.outbuf := rfl
@[simp] theorem dropWrite_sched : (dropWrite s).sched = s.sched := rfl
@[simp] theorem dropWrite_pending : (dropWrite s).pending = s.pending := rfl
@[simp] theorem dropWrite_hidden : (dropWrite s).hidden = s.hidden := rfl
@[simp] theorem dropWrite_script : (dropWrite s).script = s.script := rfl
@[simp] theorem dropWrite_rdata : (dropWrite s).rdata = s.rdata := rfl
@[simp] theorem dropWrite_draws : (dropWrite s).draws = s.draws := rfl
@[simp] theorem dropWrite_epoch : (dropWrite s).epoch = s.epoch := rfl

/-! `setScript`. -/

@[simp] theorem setScript_cfg (es : List Event) : (setScript es s).cfg = s.cfg := rfl
@[simp] theorem setScript_ie (es : List Event) : (setScript es s).ie = s.ie := rfl
@[simp] theorem setScript_keychk (es : List Event) : (setScript es s).keychk = s.keychk := rfl
@[simp] theorem setScript_busy (es : List Event) : (setScript es s).busy = s.busy := rfl
@[simp] theorem setScript_done (es : List Event) : (setScript es s).done = s.done := rfl
@[simp] theorem setScript_keyValid (es : List Event) : (setScript es s).keyValid = s.keyValid := rfl
@[simp] theorem setScript_busyWr (es : List Event) : (setScript es s).busyWr = s.busyWr := rfl
@[simp] theorem setScript_errCode (es : List Event) : (setScript es s).errCode = s.errCode := rfl
@[simp] theorem setScript_rounds (es : List Event) : (setScript es s).rounds = s.rounds := rfl
@[simp] theorem setScript_keyLen (es : List Event) : (setScript es s).keyLen = s.keyLen := rfl
@[simp] theorem setScript_ivLen (es : List Event) : (setScript es s).ivLen = s.ivLen := rfl
@[simp] theorem setScript_inLen (es : List Event) : (setScript es s).inLen = s.inLen := rfl
@[simp] theorem setScript_outLen (es : List Event) : (setScript es s).outLen = s.outLen := rfl
@[simp] theorem setScript_ksRounds (es : List Event) : (setScript es s).ksRounds = s.ksRounds := rfl
@[simp] theorem setScript_iv0 (es : List Event) : (setScript es s).iv0 = s.iv0 := rfl
@[simp] theorem setScript_iv1 (es : List Event) : (setScript es s).iv1 = s.iv1 := rfl
@[simp] theorem setScript_iv2 (es : List Event) : (setScript es s).iv2 = s.iv2 := rfl
@[simp] theorem setScript_iv3 (es : List Event) : (setScript es s).iv3 = s.iv3 := rfl
@[simp] theorem setScript_keybuf (es : List Event) : (setScript es s).keybuf = s.keybuf := rfl
@[simp] theorem setScript_inbuf (es : List Event) : (setScript es s).inbuf = s.inbuf := rfl
@[simp] theorem setScript_outbuf (es : List Event) : (setScript es s).outbuf = s.outbuf := rfl
@[simp] theorem setScript_sched (es : List Event) : (setScript es s).sched = s.sched := rfl
@[simp] theorem setScript_pending (es : List Event) : (setScript es s).pending = s.pending := rfl
@[simp] theorem setScript_hidden (es : List Event) : (setScript es s).hidden = s.hidden := rfl
@[simp] theorem setScript_script (es : List Event) : (setScript es s).script = es := rfl
@[simp] theorem setScript_rdata (es : List Event) : (setScript es s).rdata = s.rdata := rfl
@[simp] theorem setScript_draws (es : List Event) : (setScript es s).draws = s.draws := rfl
@[simp] theorem setScript_epoch (es : List Event) : (setScript es s).epoch = s.epoch := rfl

/-! `finishRead`. -/

@[simp] theorem finishRead_cfg (v : Word) : (finishRead v s).cfg = s.cfg := rfl
@[simp] theorem finishRead_ie (v : Word) : (finishRead v s).ie = s.ie := rfl
@[simp] theorem finishRead_keychk (v : Word) : (finishRead v s).keychk = s.keychk := rfl
@[simp] theorem finishRead_busy (v : Word) : (finishRead v s).busy = s.busy := rfl
@[simp] theorem finishRead_done (v : Word) : (finishRead v s).done = s.done := rfl
@[simp] theorem finishRead_keyValid (v : Word) : (finishRead v s).keyValid = s.keyValid := rfl
@[simp] theorem finishRead_busyWr (v : Word) : (finishRead v s).busyWr = s.busyWr := rfl
@[simp] theorem finishRead_errCode (v : Word) : (finishRead v s).errCode = s.errCode := rfl
@[simp] theorem finishRead_rounds (v : Word) : (finishRead v s).rounds = s.rounds := rfl
@[simp] theorem finishRead_keyLen (v : Word) : (finishRead v s).keyLen = s.keyLen := rfl
@[simp] theorem finishRead_ivLen (v : Word) : (finishRead v s).ivLen = s.ivLen := rfl
@[simp] theorem finishRead_inLen (v : Word) : (finishRead v s).inLen = s.inLen := rfl
@[simp] theorem finishRead_outLen (v : Word) : (finishRead v s).outLen = s.outLen := rfl
@[simp] theorem finishRead_ksRounds (v : Word) : (finishRead v s).ksRounds = s.ksRounds := rfl
@[simp] theorem finishRead_iv0 (v : Word) : (finishRead v s).iv0 = s.iv0 := rfl
@[simp] theorem finishRead_iv1 (v : Word) : (finishRead v s).iv1 = s.iv1 := rfl
@[simp] theorem finishRead_iv2 (v : Word) : (finishRead v s).iv2 = s.iv2 := rfl
@[simp] theorem finishRead_iv3 (v : Word) : (finishRead v s).iv3 = s.iv3 := rfl
@[simp] theorem finishRead_keybuf (v : Word) : (finishRead v s).keybuf = s.keybuf := rfl
@[simp] theorem finishRead_inbuf (v : Word) : (finishRead v s).inbuf = s.inbuf := rfl
@[simp] theorem finishRead_outbuf (v : Word) : (finishRead v s).outbuf = s.outbuf := rfl
@[simp] theorem finishRead_sched (v : Word) : (finishRead v s).sched = s.sched := rfl
@[simp] theorem finishRead_pending (v : Word) : (finishRead v s).pending = s.pending := rfl
@[simp] theorem finishRead_hidden (v : Word) : (finishRead v s).hidden = s.hidden := rfl
@[simp] theorem finishRead_script (v : Word) : (finishRead v s).script = s.script := rfl
@[simp] theorem finishRead_rdata (v : Word) : (finishRead v s).rdata = v := rfl
@[simp] theorem finishRead_draws (v : Word) : (finishRead v s).draws = s.draws + 1 := rfl
@[simp] theorem finishRead_epoch (v : Word) : (finishRead v s).epoch = s.epoch := rfl

/-! `placeCommand`. -/

@[simp] theorem placeCommand_cfg (w : Word) : (placeCommand w s).cfg = s.cfg := rfl
@[simp] theorem placeCommand_ie (w : Word) : (placeCommand w s).ie = s.ie := rfl
@[simp] theorem placeCommand_keychk (w : Word) : (placeCommand w s).keychk = s.keychk := rfl
@[simp] theorem placeCommand_busy (w : Word) : (placeCommand w s).busy = true := rfl
@[simp] theorem placeCommand_done (w : Word) : (placeCommand w s).done = false := rfl
@[simp] theorem placeCommand_keyValid (w : Word) : (placeCommand w s).keyValid = s.keyValid := rfl
@[simp] theorem placeCommand_busyWr (w : Word) : (placeCommand w s).busyWr = s.busyWr := rfl
@[simp] theorem placeCommand_errCode (w : Word) : (placeCommand w s).errCode = 0 := rfl
@[simp] theorem placeCommand_rounds (w : Word) : (placeCommand w s).rounds = s.rounds := rfl
@[simp] theorem placeCommand_keyLen (w : Word) : (placeCommand w s).keyLen = s.keyLen := rfl
@[simp] theorem placeCommand_ivLen (w : Word) : (placeCommand w s).ivLen = s.ivLen := rfl
@[simp] theorem placeCommand_inLen (w : Word) : (placeCommand w s).inLen = s.inLen := rfl
@[simp] theorem placeCommand_outLen (w : Word) : (placeCommand w s).outLen = s.outLen := rfl
@[simp] theorem placeCommand_ksRounds (w : Word) : (placeCommand w s).ksRounds = s.ksRounds := rfl
@[simp] theorem placeCommand_iv0 (w : Word) : (placeCommand w s).iv0 = s.iv0 := rfl
@[simp] theorem placeCommand_iv1 (w : Word) : (placeCommand w s).iv1 = s.iv1 := rfl
@[simp] theorem placeCommand_iv2 (w : Word) : (placeCommand w s).iv2 = s.iv2 := rfl
@[simp] theorem placeCommand_iv3 (w : Word) : (placeCommand w s).iv3 = s.iv3 := rfl
@[simp] theorem placeCommand_keybuf (w : Word) : (placeCommand w s).keybuf = s.keybuf := rfl
@[simp] theorem placeCommand_inbuf (w : Word) : (placeCommand w s).inbuf = s.inbuf := rfl
@[simp] theorem placeCommand_outbuf (w : Word) : (placeCommand w s).outbuf = s.outbuf := rfl
@[simp] theorem placeCommand_sched (w : Word) : (placeCommand w s).sched = s.sched := rfl
@[simp] theorem placeCommand_pending (w : Word) : (placeCommand w s).pending = some { word := w, keychk := s.keychk } := rfl
@[simp] theorem placeCommand_hidden (w : Word) : (placeCommand w s).hidden = s.hidden := rfl
@[simp] theorem placeCommand_script (w : Word) : (placeCommand w s).script = .engine :: s.script := rfl
@[simp] theorem placeCommand_rdata (w : Word) : (placeCommand w s).rdata = s.rdata := rfl
@[simp] theorem placeCommand_draws (w : Word) : (placeCommand w s).draws = s.draws := rfl
@[simp] theorem placeCommand_epoch (w : Word) : (placeCommand w s).epoch = s.epoch := rfl

end Sys2Proof.Machine
end

