-- ==== Sys2Proof/Laws/Ops.lean ====
section
/-! SUPPORT. One lemma per shared operation, saying once everything it can do: the checks, a data command, a host access, a turn, a step. -/

namespace Sys2Proof.Machine

@[simp] theorem firstError_nil : firstError [] = none := rfl

@[simp] theorem firstError_true (e : Err) (cs : List (Bool × Err)) : firstError ((true, e) :: cs) = some e := rfl

@[simp] theorem firstError_false (e : Err) (cs : List (Bool × Err)) : firstError ((false, e) :: cs) = firstError cs := rfl

/-- No error: every condition is false. -/
theorem firstError_eq_none {cs : List (Bool × Err)} : firstError cs = none ↔ ∀ c ∈ cs, c.1 = false := by
  induction cs with
  | nil => simp
  | cons c cs ih =>
    obtain ⟨b, e⟩ := c
    cases b <;> simp [ih]

/-- A data command ends in its output or in its first error. -/
theorem runData_cases (i : Instr) (cs : List (Bool × Err)) (out : List Byte) (s : State) :
    (firstError cs = none ∧ runData i cs out s = complete (writeOutput out s)) ∨
    (∃ e, firstError cs = some e ∧ runData i cs out s = raiseErr i e s) := by
  unfold runData
  cases h : firstError cs with
  | none => exact .inl ⟨rfl, rfl⟩
  | some e => exact .inr ⟨e, rfl, rfl⟩

/-- KEY_EXPAND ends in its commit or in its first error. -/
theorem execKeyExpand_cases (s : State) :
    (firstError (keyExpandChecks s) = none ∧
      execKeyExpand s = .next (complete (commitSchedule (expand (keyBytes s) (roundsOp s)) s))) ∨
    (∃ e, firstError (keyExpandChecks s) = some e ∧ execKeyExpand s = .next (raiseErr .keyExpand e s)) := by
  unfold execKeyExpand
  cases h : firstError (keyExpandChecks s) with
  | none => exact .inl ⟨rfl, rfl⟩
  | some e => exact .inr ⟨e, rfl, rfl⟩

/-- An access of the interface gives its state; any other stops by name. -/
theorem hostAccess_eq_next {off : Nat} {t u : State} (h : hostAccess off t = .next u) :
    off % 4 = 0 ∧ u = t := by
  unfold hostAccess at h
  split at h
  · cases h
  · cases h
    exact ⟨by omega, rfl⟩

theorem hostAccess_ok {off : Nat} (t : State) (ha : off % 4 = 0) : hostAccess off t = .next t := by
  unfold hostAccess
  rw [if_neg (by simp [ha])]

/-- What a host move that gives a next state does. -/
theorem hostMove_cases {m : HostMove} {s t : State} (h : hostMove m s = .next t) :
    (∃ off v, m = .write off v ∧ off % 4 = 0 ∧ t = writeLoc (locate s.cfg off) v s) ∨
    (∃ off, m = .read off ∧ off % 4 = 0 ∧ t = finishRead (readLoc (locate s.cfg off) s) s) ∨
    (m = .reset ∧ t = resetNow s) := by
  cases m with
  | write off v =>
    obtain ⟨ha, rfl⟩ := hostAccess_eq_next h
    exact .inl ⟨off, v, rfl, ha, rfl⟩
  | read off =>
    obtain ⟨ha, rfl⟩ := hostAccess_eq_next h
    exact .inr (.inl ⟨off, rfl, ha, rfl⟩)
  | reset =>
    cases h
    exact .inr (.inr ⟨rfl, rfl⟩)

/-- What a host write does: one of the named writes, or nothing. -/
theorem writeLoc_cases (l : Loc) (v : Word) (s : State) :
    (l = .ctrl ∧ writeLoc l v s = writeCtrl v s) ∨
    (l = .status ∧ writeLoc l v s = writeStatus v s) ∨
    (l = .cmd ∧ writeLoc l v s = writeCmd v s) ∨
    (s.busy = true ∧ writeLoc l v s = dropWrite s) ∨
    (s.busy = false ∧ writeLoc l v s = writeIdle l v s) := by
  cases l <;> simp only [writeLoc, true_and, reduceCtorEq, false_and, false_or] <;>
    first
    | exact .inl trivial
    | (cases s.busy <;> simp)

@[simp] theorem offsetAt_base (p : Params) (off : Nat) : offsetAt p (p.base + off) = some off := by simp [offsetAt]

theorem offsetAt_eq_some {p : Params} {addr off : Nat} : offsetAt p addr = some off ↔ addr = p.base + off := by
  unfold offsetAt
  split
  · simp only [Option.some.injEq]
    omega
  · simp only [reduceCtorEq, false_iff]
    omega

theorem offsetAt_eq_none {p : Params} {addr : Nat} : offsetAt p addr = none ↔ addr < p.base := by
  unfold offsetAt
  split <;> simp <;> omega

@[simp] theorem busTurn_write (p : Params) (off : Nat) (v : Word) : busTurn p (.write (p.base + off) v) = .host (.write off v) := by
  simp [busTurn]

@[simp] theorem busTurn_read (p : Params) (off : Nat) : busTurn p (.read (p.base + off)) = .host (.read off) := by simp [busTurn]

@[simp] theorem busTurn_reset (p : Params) : busTurn p .reset = .host .reset := rfl

/-- Where the turn of a move on the bus is a host's move, the move is that one at BASE plus its offset. -/
theorem busTurn_eq_host {p : Params} {m : BusMove} {h : HostMove} (hm : busTurn p m = .host h) :
    (∃ off v, m = .write (p.base + off) v ∧ h = .write off v) ∨ (∃ off, m = .read (p.base + off) ∧ h = .read off) ∨
    (m = .reset ∧ h = .reset) := by
  cases m with
  | write addr v =>
    cases ho : offsetAt p addr with
    | none => simp [busTurn, ho] at hm
    | some off =>
      simp only [busTurn, ho, Turn.host.injEq] at hm
      exact .inl ⟨off, v, by rw [offsetAt_eq_some.mp ho], hm.symm⟩
  | read addr =>
    cases ho : offsetAt p addr with
    | none => simp [busTurn, ho] at hm
    | some off =>
      simp only [busTurn, ho, Turn.host.injEq] at hm
      exact .inr (.inl ⟨off, by rw [offsetAt_eq_some.mp ho], hm.symm⟩)
  | reset =>
    simp only [busTurn, Turn.host.injEq] at hm
    exact .inr (.inr ⟨rfl, hm.symm⟩)

/-- The turn of a move on the bus is never the engine's, and is none of the FRCE's for an access below BASE only. -/
theorem busTurn_elsewhere {p : Params} {m : BusMove} :
    busTurn p m ≠ .engine ∧
    (busTurn p m = .elsewhere ↔ ∃ addr, addr < p.base ∧ (m = .read addr ∨ ∃ v, m = .write addr v)) := by
  cases m with
  | write addr v => cases ho : offsetAt p addr <;> simp [busTurn, ho] <;> have := offsetAt_eq_none (p := p) (addr := addr) <;> simp_all
  | read addr => cases ho : offsetAt p addr <;> simp [busTurn, ho] <;> have := offsetAt_eq_none (p := p) (addr := addr) <;> simp_all
  | reset => simp [busTurn]

/-- The event taken is one of four. -/
theorem nextTurn_cases (s : State) :
    (s.script = [] ∧ nextTurn s = (.engine, s)) ∨
    (∃ m es, s.script = .host m :: es ∧ nextTurn s = (busTurn s.cfg m, setScript es s)) ∨
    (∃ es, s.script = .engine :: es ∧ nextTurn s = (.engine, setScript es s)) ∨
    (∃ es, s.script = .wait :: es ∧ s.busy = true ∧ nextTurn s = (.engine, s)) ∨
    (∃ es, s.script = .wait :: es ∧ s.busy = false ∧ nextTurn s = (.host (.read 0x004), setScript es s)) := by
  unfold nextTurn
  cases hs : s.script with
  | nil => exact .inl ⟨rfl, rfl⟩
  | cons e es =>
    cases e with
    | host m => exact .inr (.inl ⟨m, es, rfl, rfl⟩)
    | engine => exact .inr (.inr (.inl ⟨es, rfl, rfl⟩))
    | wait =>
      cases hb : s.busy with
      | true => exact .inr (.inr (.inr (.inl ⟨es, rfl, rfl, by simp⟩)))
      | false => exact .inr (.inr (.inr (.inr ⟨es, rfl, rfl, by simp⟩)))

/-- The state that a turn is taken in differs from the state before it in its script only. -/
theorem nextTurn_state (s : State) : ∃ es, (nextTurn s).2 = setScript es s := by
  rcases nextTurn_cases s with ⟨_, h⟩ | ⟨_, es, _, h⟩ | ⟨es, _, h⟩ | ⟨_, _, _, h⟩ | ⟨es, _, _, h⟩ <;>
    rw [h] <;> first | exact ⟨es, rfl⟩ | exact ⟨s.script, rfl⟩

/-- A host write comes from an event that writes at BASE plus the offset. -/
theorem script_of_write {s t : State} {off : Nat} {v : Word} (h : nextTurn s = (.host (.write off v), t)) :
    ∃ es, s.script = .host (.write (s.cfg.base + off) v) :: es := by
  rcases nextTurn_cases s with ⟨_, hn⟩ | ⟨m, es, hs, hn⟩ | ⟨es, _, hn⟩ | ⟨es, _, _, hn⟩ | ⟨es, _, _, hn⟩ <;>
    rw [h, Prod.mk.injEq] at hn
  case inr.inl =>
    rcases busTurn_eq_host hn.1.symm with ⟨o, w, rfl, e⟩ | ⟨o, _, e⟩ | ⟨_, e⟩ <;> cases e
    exact ⟨es, hs⟩
  all_goals exact absurd hn.1 (by simp)

/-- A reset comes from the reset input. -/
theorem script_of_reset {s t : State} (h : nextTurn s = (.host .reset, t)) : ∃ es, s.script = .host .reset :: es := by
  rcases nextTurn_cases s with ⟨_, hn⟩ | ⟨m, es, hs, hn⟩ | ⟨es, _, hn⟩ | ⟨es, _, _, hn⟩ | ⟨es, _, _, hn⟩ <;>
    rw [h, Prod.mk.injEq] at hn
  case inr.inl =>
    rcases busTurn_eq_host hn.1.symm with ⟨o, w, _, e⟩ | ⟨o, _, e⟩ | ⟨rfl, _⟩
    · cases e
    · cases e
    · exact ⟨es, hs⟩
  all_goals exact absurd hn.1 (by simp)

/-- What one step that gives a next state does: a host move, a completion, or an idle turn of the engine. -/
theorem step_cases {s t : State} (h : step s = .next t) :
    ∃ es, (∃ m, nextTurn s = (.host m, setScript es s) ∧ hostMove m (setScript es s) = .next t) ∨
      (∃ l, nextTurn s = (.engine, setScript es s) ∧ s.pending = some l ∧
        exec (decode l.word) (setScript es s) = .next t) ∨
      (nextTurn s = (.engine, setScript es s) ∧ s.pending = none ∧ t = setScript es s) := by
  obtain ⟨es, he⟩ := nextTurn_state s
  refine ⟨es, ?_⟩
  unfold step at h
  generalize hn : nextTurn s = p at h he
  obtain ⟨turn, u⟩ := p
  dsimp only at h he
  subst he
  cases turn with
  | host m => exact .inl ⟨m, rfl, h⟩
  | elsewhere => cases h
  | engine =>
    cases hp : s.pending with
    | none =>
      simp only [latchedWord, setScript_pending, hp, Option.map_none] at h
      cases h
      exact .inr (.inr ⟨rfl, rfl, rfl⟩)
    | some l =>
      simp only [latchedWord, setScript_pending, hp, Option.map_some] at h
      exact .inr (.inl ⟨l, rfl, rfl, h⟩)

end Sys2Proof.Machine
end

