-- ==== Sys2Proof/Laws/HostAccess.lean ====
section
/-! SUPPORT. The register map by ranges of offsets, and one spec lemma for each host access. -/

namespace Sys2Proof.Machine

/-- Above the registers only the windows are mapped. -/
theorem locate_of_ge (p : Params) {off : Nat} (h : 0x40 ≤ off) : locate p off = locateWindow p off := by
  obtain ⟨k, rfl⟩ : ∃ k, off = k + 0x40 := ⟨off - 0x40, by omega⟩
  rfl

theorem locate_keyw {p : Params} {k : Nat} (hk : 4 * k < p.keyMaxBytes) : locate p (0x100 + 4 * k) = .keyw k := by
  rw [locate_of_ge p (by omega), locateWindow, if_pos (by omega)]
  congr 1
  omega

theorem locate_inw {p : Params} (hp : p.Legal) {k : Nat} (hk : 4 * k < p.nBuf) : locate p (0x2000 + 4 * k) = .inw k := by
  obtain ⟨_, ⟨_, _, _⟩, _⟩ := hp
  rw [locate_of_ge p (by omega), locateWindow, if_neg (by omega), if_pos (by omega)]
  congr 1
  omega

theorem locate_outw {p : Params} (hp : p.Legal) {k : Nat} (hk : 4 * k < p.nOut) : locate p (0x4000 + 4 * k) = .outw k := by
  obtain ⟨_, ⟨_, _, _⟩, ⟨_, _, _⟩⟩ := hp
  rw [locate_of_ge p (by omega), locateWindow, if_neg (by omega), if_neg (by omega), if_pos (by omega)]
  congr 1
  omega

/-- Every offset from 0x6000 is unmapped. -/
theorem locate_of_ge_space {p : Params} (hp : p.Legal) {off : Nat} (h : 0x6000 ≤ off) : locate p off = .unmapped := by
  obtain ⟨_, ⟨_, _, _⟩, ⟨_, _, _⟩⟩ := hp
  have hn : p.nOut = p.nBuf + 16 := rfl
  rw [locate_of_ge p (by omega), locateWindow, if_neg (by omega), if_neg (by omega), if_neg (by omega)]

/-- CTRL, STATUS and CMD stand at no other offset. -/
theorem locate_other (p : Params) {off : Nat} (h0 : off ≠ 0x000) (h4 : off ≠ 0x004) (h8 : off ≠ 0x008) :
    locate p off ≠ .ctrl ∧ locate p off ≠ .status ∧ locate p off ≠ .cmd := by
  by_cases h : 0x40 ≤ off
  · rw [locate_of_ge p h, locateWindow]
    split_ifs <;> simp
  · have hlt : off < 0x40 := by omega
    interval_cases off <;> simp_all [locate, locateWindow]

/-- A window word's index is below the window's size. -/
theorem locateWindow_bounds {p : Params} {off : Nat} :
    (∀ k, locateWindow p off = .keyw k → off % 4 = 0 → p.keyMaxBytes % 4 = 0 → 4 * k + 4 ≤ p.keyMaxBytes) ∧
    (∀ k, locateWindow p off = .inw k → off % 4 = 0 → p.nBuf % 4 = 0 → 4 * k + 4 ≤ p.nBuf) := by
  unfold locateWindow
  constructor <;> intro k <;> split_ifs <;> simp only [Loc.keyw.injEq, Loc.inw.injEq, false_implies] <;>
    omega

theorem hostMove_write {off : Nat} (v : Word) (s : State) (h : AccessOk off) :
    hostMove (.write off v) s = .next (writeLoc (locate s.cfg off) v s) :=
  hostAccess_ok _ h

theorem hostMove_read {off : Nat} (s : State) (h : AccessOk off) :
    hostMove (.read off) s = .next (finishRead (readLoc (locate s.cfg off) s) s) :=
  hostAccess_ok _ h

/-- A write while busy to a location other than CTRL and STATUS. -/
theorem writeLoc_busy {l : Loc} {v : Word} {s : State} (hb : s.busy = true) (h0 : l ≠ .ctrl) (h1 : l ≠ .status) :
    writeLoc l v s = dropWrite s := by
  cases l <;> simp_all [writeLoc, writeCmd]

/-- The two write-one-to-clear bits at once. -/
theorem writeStatus_eq (v : Word) (s : State) :
    writeStatus v s = { s with done := s.done && !v.getLsbD 1, busyWr := s.busyWr && !v.getLsbD 4 } := by
  unfold writeStatus acknowledge clearBusyWr
  cases v.getLsbD 1 <;> cases v.getLsbD 4 <;> cases s <;> simp

theorem writeCtrl_noReset {v : Word} (h : v.getLsbD 2 = false) (s : State) :
    writeCtrl v s = { s with ie := v.getLsbD 0, keychk := v.getLsbD 1 } := by
  unfold writeCtrl
  rw [h]
  rfl

theorem writeCtrl_reset {v : Word} (h : v.getLsbD 2 = true) (s : State) : writeCtrl v s = resetNow s := by
  unfold writeCtrl
  rw [h]
  rfl

/-- One flag at one place. -/
theorem getLsbD_bitAt (b : Bool) {n : Nat} (hn : n < 32) (k : Nat) : (bitAt b n).getLsbD k = (decide (k = n) && b) := by
  unfold bitAt
  rw [BitVec.getLsbD_shiftLeft]
  by_cases hk : k = n
  · subst hk
    cases b <;> simp [hn]
  · by_cases hlt : k < n
    · simp [hk, hlt]
    · have : k - n ≠ 0 := by omega
      simp [hk, this]

/-- The bits of a word built from five flags. -/
theorem getLsbD_flags (b0 b1 b2 b3 b4 : Bool) (n : Nat) :
    (bitAt b0 0 ||| bitAt b1 1 ||| bitAt b2 2 ||| bitAt b3 3 ||| bitAt b4 4).getLsbD n =
      if n = 0 then b0 else if n = 1 then b1 else if n = 2 then b2 else if n = 3 then b3 else if n = 4 then b4
      else false := by
  simp only [BitVec.getLsbD_or, getLsbD_bitAt _ (by decide : 0 < 32), getLsbD_bitAt _ (by decide : 1 < 32),
    getLsbD_bitAt _ (by decide : 2 < 32), getLsbD_bitAt _ (by decide : 3 < 32), getLsbD_bitAt _ (by decide : 4 < 32)]
  split_ifs <;> simp_all

/-- The bytes after an idle write to a window word. -/
theorem read_writeWindow (m : Memory) (k : Nat) (v : Word) (a : Nat) :
    Memory.read (writeWindow m k v) a =
      if 4 * k ≤ a ∧ a < 4 * k + 4 then some (byteOf v (a - 4 * k)) else Memory.read m a := by
  unfold writeWindow
  rw [Memory.read_writeBytes]
  have hl : (bytes4 v).length = 4 := rfl
  rw [hl]
  split
  · obtain ⟨j, rfl⟩ : ∃ j, a = 4 * k + j := ⟨a - 4 * k, by omega⟩
    have hj : j < 4 := by omega
    rw [Nat.add_sub_cancel_left]
    interval_cases j <;> rfl
  · rfl

end Sys2Proof.Machine
end

