-- ==== Sys2Proof/Laws/Commands.lean ====
section
/-! SUPPORT. What the meanings do, said once for all commands, and the offset of CTRL. -/

namespace Sys2Proof.Machine

/-- A data command runs its checks and its output, and an output that is written fits OUTBUF. -/
theorem exec_data {i : Instr} (hi : i.isData = true) (s : State) :
    ∃ cs out, exec i s = .next (runData i cs out s) ∧
      (s.cfg.Legal → firstError cs = none → out.length ≤ s.cfg.nOut) := by
  have hin := length_inputBytes s
  have hpad : (pad (inputBytes s)).length = s.inLen.toNat + (16 - s.inLen.toNat % 16) := by simp [pad, hin]
  cases i <;> first | exact absurd hi Bool.false_ne_true | (refine ⟨_, _, rfl, ?_⟩; rintro ⟨_, _, hp⟩ h)
  all_goals
    simp only [firstError_eq_none, precheckCipher, precheckNoKey, List.cons_append, List.nil_append, List.forall_mem_cons,
      lengthRange_eq_false, badInputLength_eq_false, List.not_mem_nil, false_implies, implies_true, and_true] at h
    unfold Params.nOut
  · rw [ecbEnc_length, hpad]
    omega
  · have := ecbDec_length (schedWord s) (ksRoundsOp s) (c := inputBytes s) (by omega)
    omega
  · rw [cbcEnc_length, hpad]
    omega
  · have := cbcDec_length (schedWord s) (ksRoundsOp s) (c := inputBytes s) (length_ivBytes s) (by omega)
    omega
  · rw [encBlock_length]
    omega
  · rw [decBlock_length]
    omega
  · rw [hpad]
    omega
  · have := unpad_length (inputBytes s)
    omega

/-- What a command does: it completes with no other effect, commits a schedule, or is a data command, which writes its output
or loses it. -/
theorem exec_cases (i : Instr) (s : State) :
    (i.isData = false ∧ ∃ code, code.toNat ≤ 9 ∧ exec i s = .next (endCommand code s)) ∨
    (i = .keyExpand ∧ firstError (keyExpandChecks s) = none ∧
      exec i s = .next (complete (commitSchedule (expand (keyBytes s) (roundsOp s)) s))) ∨
    (i.isData = true ∧ ∃ out, (s.cfg.Legal → out.length ≤ s.cfg.nOut) ∧ exec i s = .next (complete (writeOutput out s))) ∨
    (i.isData = true ∧ ∃ e, exec i s = .next (endCommand (errCodeOf e) (forgetOutput s))) := by
  by_cases hi : i.isData = true
  · obtain ⟨cs, out, he, hl⟩ := exec_data hi s
    rcases runData_cases i cs out s with ⟨hn, h⟩ | ⟨e, _, h⟩
    · exact .inr (.inr (.inl ⟨hi, out, fun hp => hl hp hn, by rw [he, h]⟩))
    · exact .inr (.inr (.inr ⟨hi, e, by rw [he, h, raiseErr, if_pos hi]⟩))
  · have hf : i.isData = false := by simpa using hi
    cases i <;> first | exact absurd rfl hi | skip
    case keyExpand =>
      rcases execKeyExpand_cases s with ⟨hn, h⟩ | ⟨e, _, h⟩
      · exact .inr (.inl ⟨rfl, hn, h⟩)
      · exact .inl ⟨hf, errCodeOf e, by cases e <;> decide, h⟩
    case nop => exact .inl ⟨hf, 0, by decide, rfl⟩
    all_goals exact .inl ⟨hf, 1, by decide, rfl⟩

/-- CTRL stands at offset 0 only. -/
theorem locate_eq_ctrl {p : Params} {off : Nat} (h : locate p off = .ctrl) : off = 0x000 := by
  by_contra h0
  by_cases h4 : off = 0x004
  · subst h4
    cases h
  · by_cases h8 : off = 0x008
    · subst h8
      cases h
    · exact (locate_other p h0 h4 h8).1 h

end Sys2Proof.Machine
end

