-- ==== Sys2Proof/Laws/PerInstr.lean ====
section
/-! SUPPORT. What is said of every instruction as syntax, one lemma per constructor. -/

namespace Sys2Proof.Laws.OpcodeRanges

/-- The words 0x2 to 0x9 are the data commands, and 0x2 to 0x7 the cipher commands (30_encoding.md R111). -/
def Statement (i : Instr) : Prop :=
  i.wellFormed = true →
    (i.isData = true ↔ 0x2 ≤ (encode i).toNat ∧ (encode i).toNat ≤ 0x9) ∧
    (i.isCipher = true ↔ 0x2 ≤ (encode i).toNat ∧ (encode i).toNat ≤ 0x7)

theorem nop : Statement .nop := by unfold Statement; decide
theorem keyExpand : Statement .keyExpand := by unfold Statement; decide
theorem encEcb : Statement .encEcb := by unfold Statement; decide
theorem decEcb : Statement .decEcb := by unfold Statement; decide
theorem encCbc : Statement .encCbc := by unfold Statement; decide
theorem decCbc : Statement .decCbc := by unfold Statement; decide
theorem encBlock : Statement .encBlock := by unfold Statement; decide
theorem decBlock : Statement .decBlock := by unfold Statement; decide
theorem pad : Statement .pad := by unfold Statement; decide
theorem unpad : Statement .unpad := by unfold Statement; decide
theorem illegalAB (low : BitVec 1) : Statement (.illegalAB low) := by revert low; unfold Statement; decide
theorem illegalCF (low : BitVec 2) : Statement (.illegalCF low) := by revert low; unfold Statement; decide

theorem illegalRsv (rsv : BitVec 28) (op : BitVec 4) : Statement (.illegalRsv rsv op) := by
  intro hw
  have hne : rsv ≠ 0 := by simpa [Instr.wellFormed] using hw
  have hpos : 0 < rsv.toNat := Nat.pos_of_ne_zero fun h => hne (BitVec.eq_of_toNat_eq h)
  have hr := rsv.isLt
  have ho := op.isLt
  have he : (encode (.illegalRsv rsv op)).toNat = 16 * rsv.toNat + op.toNat := by
    simp only [encode, BitVec.toNat_ofNat]
    omega
  rw [he]
  constructor <;> constructor <;> intro h
  · exact absurd h Bool.false_ne_true
  · omega
  · exact absurd h Bool.false_ne_true
  · omega

end Sys2Proof.Laws.OpcodeRanges
end

