-- ==== Sys2Proof/Machine/Script.lean ====
section
/-! DEFINITION. Host access scripts: the lines and the pseudo-instructions of 30_encoding.md R120 and R121, as lists of events.
An access is made at BASE plus the offset (R89). -/

namespace Sys2Proof.Machine

/-- `WR <reg>, <value>` (R120). An unmapped location has no one offset and is written by its offset. -/
def scriptWr (p : Params) (l : Loc) (v : Word) : List Event :=
  (offsetOf l).toList.map fun off => .host (.write (p.base + off) v)

/-- `RD <reg>` (R120). -/
def scriptRd (p : Params) (l : Loc) : List Event := (offsetOf l).toList.map fun off => .host (.read (p.base + off))

/-- `WR <offset>, <value>` (R120). -/
def scriptWrOffset (p : Params) (off : Nat) (v : Word) : List Event := [.host (.write (p.base + off) v)]

/-- `RD <offset>` (R120). -/
def scriptRdOffset (p : Params) (off : Nat) : List Event := [.host (.read (p.base + off))]

/-- `WAIT` (R120). -/
def scriptWait : List Event := [.wait]

/-- `CMD <mn>` (R121). -/
def scriptCmd (p : Params) (i : Instr) : List Event := scriptWr p .cmd (encode i)

/-- `RUN <mn>` (R121). -/
def scriptRun (p : Params) (i : Instr) : List Event := scriptCmd p i ++ scriptWait

/-- The words of a byte sequence written to consecutive window words, missing bytes 0 (R121). -/
def scriptWindow (p : Params) (window : Nat → Loc) (k : Nat) : List Word → List Event
  | [] => []
  | w :: ws => scriptWr p (window k) w ++ scriptWindow p window (k + 1) ws

/-- `LOADKEY <bytes>` (R121). -/
def scriptLoadKey (p : Params) (bytes : List Byte) : List Event :=
  scriptWindow p .keyw 0 (bytesToWords bytes) ++ scriptWr p .keyLen (BitVec.ofNat 32 bytes.length)

/-- `LOADIN <bytes>` (R121). -/
def scriptLoadIn (p : Params) (bytes : List Byte) : List Event :=
  scriptWindow p .inw 0 (bytesToWords bytes) ++ scriptWr p .inLen (BitVec.ofNat 32 bytes.length)

/-- Register IVk (R44). -/
def ivLoc : Nat → Loc
  | 0 => .iv0
  | 1 => .iv1
  | 2 => .iv2
  | 3 => .iv3
  | _ => .unmapped

/-- `LOADIV <16 bytes>` (R121). -/
def scriptLoadIv (p : Params) (bytes : List Byte) : List Event :=
  scriptWindow p ivLoc 0 (bytesToWords bytes) ++ scriptWr p .ivLen 0x10

/-- `READOUT`, where `m` is what the read of OUT_LEN returned (R121). -/
def scriptReadOut (p : Params) (m : Nat) : List Event :=
  scriptRd p .outLen ++ (List.range ((m + 3) / 4)).flatMap fun k => scriptRd p (.outw k)

/-- `ACK` (R121). -/
def scriptAck (p : Params) : List Event := scriptWr p .status 0x00000002

end Sys2Proof.Machine
end

