-- ==== Sys2Proof/Tests/Slice0.lean ====
section
/-! SUPPORT. The model's own tests: expected results are the vectors of 95_test_vectors.md, the words are written out from 30_encoding.md; and for
each statement with hypotheses a witness that meets them. -/

namespace Sys2Proof.Tests

open Sys2Proof Sys2Proof.Machine

/-! Inputs of 95_test_vectors.md. -/

/-- `rep(n, v)`. -/
def rep (n : Nat) (v : Byte) : List Byte := List.replicate n v

/-- K16. -/
def k16 : List Byte := (List.range 16).map (BitVec.ofNat 8)

/-- HW. -/
def hw : List Byte := [0x48, 0x65, 0x6c, 0x6c, 0x6f, 0x2c, 0x20, 0x57, 0x6f, 0x72, 0x6c, 0x64, 0x21]

/-- FOX: `The quick brown fox jumps over the lazy dog`. -/
def fox : List Byte :=
  [0x54, 0x68, 0x65, 0x20, 0x71, 0x75, 0x69, 0x63, 0x6b, 0x20, 0x62, 0x72, 0x6f, 0x77, 0x6e, 0x20] ++
  [0x66, 0x6f, 0x78, 0x20, 0x6a, 0x75, 0x6d, 0x70, 0x73, 0x20, 0x6f, 0x76, 0x65, 0x72, 0x20, 0x74] ++
  [0x68, 0x65, 0x20, 0x6c, 0x61, 0x7a, 0x79, 0x20, 0x64, 0x6f, 0x67]

/-- V-MODE-1: the ECB ciphertext of HW. -/
def hwEcb : List Byte :=
  [0x02, 0x91, 0x5a, 0xe5, 0x44, 0xcc, 0x7f, 0x02, 0x42, 0x00, 0x68, 0x4a, 0xfe, 0x25, 0x36, 0x1a]

/-- V-MODE-4: the CBC ciphertext of FOX under IV0123. -/
def foxCbc : List Byte :=
  [0x08, 0x27, 0x8c, 0x11, 0x6b, 0xea, 0x6b, 0x20, 0xb6, 0xce, 0xec, 0x93, 0x6c, 0x5c, 0xf1, 0x77] ++
  [0x69, 0xb7, 0x71, 0xd0, 0xea, 0x49, 0x73, 0x57, 0x52, 0x17, 0x48, 0x7e, 0xe9, 0x9d, 0x15, 0x15] ++
  [0xd1, 0x4e, 0x3b, 0xfb, 0x00, 0x7d, 0x62, 0x65, 0x76, 0x01, 0x52, 0xe2, 0xcc, 0xf6, 0x46, 0xf8]

/-- V-KS-2: the schedule of K16 at r = 20. -/
def schedK16 : List Word :=
  [0x298B3983, 0xBE89CEBC, 0x364B5215, 0xBF53820D, 0xB92A690D, 0x8AD0DD8F, 0xA2FE0759, 0x0382DAE2] ++
  [0xE5825594, 0x05852C55, 0xD71778FA, 0x27E1ADDF, 0xEC9050F4, 0x668BF6E6, 0xB4E1AE55, 0x601EA5CB] ++
  [0xE050B171, 0x1E4A7D1C, 0xB0E5F9E7, 0x90BE20BA, 0xF78E8172, 0xE437C04E, 0xAA766580, 0x74A7A24E] ++
  [0x1B3829F3, 0x8F938866, 0xB4470472, 0xEB2A79AB, 0xDAD85346, 0xECC68D36, 0xEAF07554, 0xF3E44B6D] ++
  [0xEE9DD0D7, 0x42DFD8A8, 0x312DA527, 0x55CCE2FF, 0x63D7B2BD, 0x7837B6B5, 0xD8E5AC54, 0xE82774EE] ++
  [0x32BA00E7, 0xE23F40D0, 0x96140580, 0x3863B2AB]

/-- V-KS-3: the schedule of K16 at r = 1. -/
def schedK16r1 : List Word := [0x0C70569A, 0x42B49CAA, 0x4EF37CDC, 0x9E26F16D, 0x212AF186, 0xD870CBF7]

/-- A schedule read by index. -/
def wordsOf (ws : List Word) (i : Nat) : Word := ws.getD i 0

/-- Bytes at the start of a buffer. -/
def bufferOf (bytes : List Byte) : Memory := Memory.writeBytes [] 0 bytes

/-- A state that holds a schedule and an input. -/
def keyed (ws : List Word) (r : BitVec 8) (input : List Byte) : State :=
  { State.reset with
    keyValid := true, ksRounds := r, sched := ws
    inbuf := bufferOf input, inLen := BitVec.ofNat 16 input.length }

/-- The same with IV0123. -/
def keyedIv (input : List Byte) : State :=
  { keyed schedK16 20 input with ivLen := 16, iv0 := 0x33323130, iv1 := 0x37363534, iv2 := 0x62613938, iv3 := 0x66656463 }

/-- A state with a key in KEYBUF. -/
def withKey (key : List Byte) (r : BitVec 8) : State :=
  { State.reset with keybuf := bufferOf key, keyLen := BitVec.ofNat 16 key.length, rounds := r }

/-- The next step runs the word `w` and ends with this code and this output. -/
def ends (w : Nat) (s : State) (code : BitVec 4) (out : List Byte) : Bool :=
  match step (s.withFetchWord 32 w) with
  | .next t => decide (t.errCode = code ∧ t.done = true ∧ t.busy = false ∧ t.outLen.toNat = out.length ∧ t.outbuf.map Prod.snd = out)
  | .fault _ | .refused _ => false

/-- The next step runs KEY_EXPAND and ends with this code and this held schedule. -/
def expands (s : State) (code : BitVec 4) (r : BitVec 8) (ws : List Word) : Bool :=
  match step (s.withFetchWord 32 0x1) with
  | .next t => decide (t.errCode = code ∧ t.done = true ∧ t.busy = false ∧ t.keyValid = true ∧ t.ksRounds = r ∧ t.sched = ws)
  | .fault _ | .refused _ => false

/-- A platform that has the FRCE at 0x40000000. -/
def platform : Params := { Params.frceRc32x128 with base := 0x40000000 }

/-- The state after reset on that platform. -/
def onPlatform : State := { State.reset with cfg := platform }

/-- The word that a host read returns. -/
def reads (off : Nat) (s : State) : Option Word :=
  match hostMove (.read off) s with
  | .next t => some t.rdata
  | .fault _ | .refused _ => none

/-! Well-formed terms. -/

/-- R112: a row 'RSV not 0' with RSV = 0 stands for no word. -/
theorem test_wellFormed_refuses_zero_rsv : (Instr.illegalRsv 0 0x2).wellFormed = false := by decide

theorem test_wellFormed_accepts_nonzero_rsv : (Instr.illegalRsv 1 0x2).wellFormed = true := by decide

/-! Decoding: OP in bits 3:0, RSV in bits 31:4 (R110, R111). -/

theorem test_decode_nop : decode 0b00000000000000000000000000000000#32 = .nop := by decide
theorem test_decode_keyExpand : decode 0b00000000000000000000000000000001#32 = .keyExpand := by decide
theorem test_decode_encEcb : decode 0b00000000000000000000000000000010#32 = .encEcb := by decide
theorem test_decode_decEcb : decode 0b00000000000000000000000000000011#32 = .decEcb := by decide
theorem test_decode_encCbc : decode 0b00000000000000000000000000000100#32 = .encCbc := by decide
theorem test_decode_decCbc : decode 0b00000000000000000000000000000101#32 = .decCbc := by decide
theorem test_decode_encBlock : decode 0b00000000000000000000000000000110#32 = .encBlock := by decide
theorem test_decode_decBlock : decode 0b00000000000000000000000000000111#32 = .decBlock := by decide
theorem test_decode_pad : decode 0b00000000000000000000000000001000#32 = .pad := by decide
theorem test_decode_unpad : decode 0b00000000000000000000000000001001#32 = .unpad := by decide
theorem test_decode_illegalAB :
    decode 0b00000000000000000000000000001010#32 = .illegalAB 0 ∧ decode 0b00000000000000000000000000001011#32 = .illegalAB 1 := by
  decide
theorem test_decode_illegalCF :
    decode 0b00000000000000000000000000001100#32 = .illegalCF 0 ∧ decode 0b00000000000000000000000000001111#32 = .illegalCF 3 := by
  decide
/-- R116: RSV is checked before OP. -/
theorem test_decode_illegalRsv :
    decode 0b00000000000000000000000000010010#32 = .illegalRsv 1 2 ∧
    decode 0b10000000000000000000000000001111#32 = .illegalRsv 0x8000000 15 := by decide

/-- R84: the first byte is the least significant. -/
theorem test_decodeBytes_little_endian :
    decodeBytes [0x04, 0x00, 0x00, 0x00, 0x77] = .ok (.encCbc, [0x77]) ∧ decodeBytes [0x04, 0x00, 0x00] = .error .truncated := by
  exact ⟨rfl, rfl⟩

theorem test_decodeTableWord :
    decodeTableWord 32 0x5 = some .decCbc ∧ decodeTableWord 32 0x12 = some (.illegalRsv 1 2) ∧ decodeTableWord 32 (2 ^ 32) = none := by
  decide

/-! The word ALU and the codec (V-ALU, V-CODEC). -/

theorem test_alu_arithmetic :
    add32 0xFFFFFFFF 0x00000001 = 0x00000000 ∧ sub32 0x00000000 0x00000001 = 0xFFFFFFFF ∧
    mul32 0xFFFFFFFF 0xFFFFFFFF = 0x00000001 ∧ mul32 0x12345678 0x9ABCDEF0 = 0x242D2080 ∧
    xor32 0xFFFF0000 0x0F0F0F0F = 0xF0F00F0F := by decide

/-- V-ALU-8 to V-ALU-12. -/
theorem test_alu_rotates :
    rotl32 0x80000001 1 = 0x00000003 ∧ rotr32 0x80000001 1 = 0xC0000000 ∧
    rotl32 0x12345678 33 = 0x2468ACF0 ∧ rotr32 0x12345678 33 = 0x091A2B3C ∧
    rotl32 0x12345678 0xFFFFFFFF = 0x091A2B3C ∧ rotr32 0x12345678 0xFFFFFFFF = 0x2468ACF0 ∧
    rotl32 0x12345678 0 = 0x12345678 ∧ rotr32 0x12345678 32 = 0x12345678 := by decide

/-- V-ALU-13 to V-ALU-20. -/
theorem test_alu_fmix :
    fmix 0x00000000 = 0x00000000 ∧ fmix 0x00000002 = 0x00000140 ∧ fmix 0xFFFFFFFF = 0x00000020 ∧
    fmix 0x80000000 = 0x00000010 ∧ fmix 0x7FFFFFFF = 0x00000030 ∧ fmix 0x12345678 = 0xC3C0DF09 ∧
    fmix 0xB7E15163 = 0xF59D3EA3 := by decide

/-- V-CODEC-1 to V-CODEC-4. -/
theorem test_codec :
    bytesToWords [] = [] ∧ bytesToWords [0x01, 0x02, 0x03, 0x04, 0x05] = [0x04030201, 0x00000005] ∧
    wordsToBytes [0x04030201, 0x00000005] = [0x01, 0x02, 0x03, 0x04, 0x05, 0x00, 0x00, 0x00] ∧
    bytesToWords [0x48, 0x65, 0x6C, 0x6C] = [0x6C6C6548] := by decide

/-! The key schedule (V-KS). -/

/-- V-KS-1. -/
theorem test_initialSchedule :
    (initialSchedule 20).take 6 = [0xB7E15163, 0x5618CB1C, 0xF45044D5, 0x9287BE8E, 0x30BF3847, 0xCEF6B200] ∧
    (initialSchedule 20)[43]? = some 0x4B32C376 := by decide +kernel

/-- V-KS-4, V-KS-5: the empty key. -/
theorem test_expand_empty_key :
    (expand [] 20).take 4 = [0xE5DCE4AC, 0x52E114B9, 0xA2AB8BCE, 0x7A175BA4] ∧ (mixed [] 20).L = [0xCC2EE05A] ∧
    (expand (rep 5 0) 20).take 4 ≠ (expand [] 20).take 4 := by decide +kernel

/-- V-KS-6: a partial last word. -/
theorem test_expand_partial_word :
    expand [0x01, 0x02, 0x03, 0x04, 0x05] 1 =
      [0xBFC11D28, 0x81BFF95D, 0xADF7AB30, 0x8B01A5C8, 0x78580889, 0x9DE434DF] ∧
    (mixed [0x01, 0x02, 0x03, 0x04, 0x05] 1).L = [0xEB0672BE, 0xF9937A04] := by decide +kernel

/-- V-KS-7: the largest key, with more key words than schedule words. -/
theorem test_expand_largest_key :
    let ws := expand ((List.range 256).map (BitVec.ofNat 8)) 1
    wordsOf ws 0 = 0x6BDBC3C5 ∧ wordsOf ws 1 = 0xF4F8DCC3 ∧ wordsOf ws 5 = 0x6D23852B := by decide +kernel

/-! The block transform (V-BT). -/

/-- V-BT-6: the published 256-bit vector. -/
theorem test_encBlock_published :
    encBlock (wordsOf (expand ([0x01, 0x23, 0x45, 0x67, 0x89, 0xab, 0xcd, 0xef, 0x01, 0x12, 0x23, 0x34, 0x45, 0x56, 0x67, 0x78] ++
        [0x89, 0x9a, 0xab, 0xbc, 0xcd, 0xde, 0xef, 0xf0, 0x10, 0x32, 0x54, 0x76, 0x98, 0xba, 0xdc, 0xfe]) 20)) 20
      [0x02, 0x13, 0x24, 0x35, 0x46, 0x57, 0x68, 0x79, 0x8a, 0x9b, 0xac, 0xbd, 0xce, 0xdf, 0xe0, 0xf1] =
      [0xc8, 0x24, 0x18, 0x16, 0xf0, 0xd7, 0xe4, 0x89, 0x20, 0xad, 0x16, 0xa1, 0x67, 0x4e, 0x5d, 0x48] := by
  decide +kernel

/-- V-BT-9: the registers after pre-whitening and after rounds 1 and 2. -/
theorem test_encRound_trace :
    let b := preWhiten (wordsOf schedK16) (splitBlock (rep 16 0))
    b = { A := 0x00000000, B := 0x298B3983, C := 0x00000000, D := 0xBE89CEBC } ∧
    encRounds (wordsOf schedK16) 1 b = { A := 0x298B3983, B := 0x2F54F068, C := 0xBE89CEBC, D := 0xDF0A8571 } ∧
    encRounds (wordsOf schedK16) 2 b = { A := 0x2F54F068, B := 0xA50CD0D5, C := 0xDF0A8571, D := 0xDA9C3B59 } := by
  decide +kernel

/-- V-BT-10. -/
theorem test_decBlock_zeros :
    decBlock (wordsOf schedK16) 20 (rep 16 0) =
      [0x8d, 0x3e, 0xcb, 0x4f, 0xe8, 0xd0, 0x76, 0x68, 0x18, 0xfc, 0xb3, 0x03, 0x08, 0xb0, 0x73, 0x02] := by decide +kernel

/-! Padding (V-PAD). -/

theorem test_pad :
    pad [] = rep 16 0x10 ∧ pad hw = hw ++ [0x03, 0x03, 0x03] ∧ pad (rep 16 0x41) = rep 16 0x41 ++ rep 16 0x10 := by decide

theorem test_unpad :
    unpad (rep 15 0 ++ [0x10]) = [] ∧ unpad (rep 16 0) = rep 16 0 ∧ unpad (rep 15 0 ++ [0x11]) = rep 15 0 ++ [0x11] ∧
    unpad (rep 13 0 ++ [0x05, 0x09, 0x03]) = rep 13 0 := by decide

/-! The commands, one step each (the words of R111). -/

/-- V-CMD-14. -/
theorem test_step_nop : ends 0x0 State.reset 0x0 [] = true := by decide +kernel

/-- V-KS-2. -/
theorem test_step_keyExpand : expands (withKey k16 20) 0x0 20 schedK16 = true := by decide +kernel

/-- V-CMD-3 with a key held. -/
theorem test_step_keyExpand_tooLong :
    expands { keyed schedK16r1 1 [] with keyLen := 0x101 } 0x8 1 schedK16r1 = true := by decide +kernel

/-- V-MODE-1. -/
theorem test_step_encEcb : ends 0x2 (keyed schedK16 20 hw) 0x0 hwEcb = true := by decide +kernel

/-- V-CMD-11: NO_KEY before LENGTH_RANGE. -/
theorem test_step_encEcb_noKey : ends 0x2 { State.reset with inLen := 0x1001 } 0x2 [] = true := by decide +kernel

/-- V-MODE-1. -/
theorem test_step_decEcb : ends 0x3 (keyed schedK16 20 hwEcb) 0x0 hw = true := by decide +kernel

/-- V-CMD-8. -/
theorem test_step_decEcb_empty : ends 0x3 (keyed schedK16 20 []) 0x5 [] = true := by decide +kernel

/-- V-MODE-4. -/
theorem test_step_encCbc : ends 0x4 (keyedIv fox) 0x0 foxCbc = true := by decide +kernel

/-- V-CMD-5. -/
theorem test_step_encCbc_badIv : ends 0x4 (keyed schedK16 20 hw) 0x4 [] = true := by decide +kernel

/-- V-MODE-4. -/
theorem test_step_decCbc : ends 0x5 (keyedIv foxCbc) 0x0 fox = true := by decide +kernel

/-- V-CMD-6: the IV is checked before the length. -/
theorem test_step_decCbc_badIv : ends 0x5 (keyed schedK16 20 hw) 0x4 [] = true := by decide +kernel

/-- V-BT-8: one round. -/
theorem test_step_encBlock :
    ends 0x6 (keyed schedK16r1 1 (rep 16 0)) 0x0
      [0x20, 0x48, 0x9b, 0x2d, 0x60, 0x90, 0xab, 0x35, 0xa1, 0x68, 0x25, 0x1b, 0xf1, 0x7b, 0x33, 0xf3] = true := by decide +kernel

/-- V-CMD-9. -/
theorem test_step_encBlock_badSize : ends 0x6 (keyed schedK16 20 hw) 0x3 [] = true := by decide +kernel

/-- V-BT-7. -/
theorem test_step_decBlock :
    ends 0x7 (keyed schedK16 20 [0xd5, 0x95, 0xfe, 0xda, 0xb0, 0x6c, 0x62, 0xd8, 0xc5, 0x29, 0x0e, 0x76, 0xed, 0x84, 0x60, 0x1d])
      0x0 (rep 16 0) = true := by decide +kernel

/-- V-CMD-15: PAD needs no key. -/
theorem test_step_pad : ends 0x8 State.reset 0x0 (rep 16 0x10) = true := by decide +kernel

/-- V-PAD-6, without a key. -/
theorem test_step_unpad :
    ends 0x9 { keyed [] 0 (rep 13 0 ++ [0x05, 0x09, 0x03]) with keyValid := false } 0x0 (rep 13 0) = true := by decide +kernel

/-- V-CMD-16. -/
theorem test_step_unpad_empty : ends 0x9 State.reset 0x5 [] = true := by decide +kernel

/-- V-CMD-13 and V-CMD-12: an illegal word leaves the output as it is. -/
theorem test_step_illegal :
    let s : State := { State.reset with outLen := 1, outbuf := [(0, 0x55)] }
    ends 0xA s 0x1 [0x55] = true ∧ ends 0xF s 0x1 [0x55] = true ∧ ends 0x12 s 0x1 [0x55] = true := by decide +kernel

/-! The host's accesses. -/

/-- V-CMD-1: STATUS after ENC_ECB without a key. -/
theorem test_status_after_error :
    (match step (State.reset.withFetchWord 32 0x2) with | .next t => reads 0x004 t | .fault _ | .refused _ => none) =
      some 0x0000000A := by decide +kernel

/-- V-CMD-17, V-CMD-18, V-CMD-19. -/
theorem test_host_writes :
    (match hostMove (.write 0x008 0x1) (accept 0x2 State.reset) with
      | .next t => decide (t.busyWr = true ∧ t.pending = some { word := 0x2, keychk := false })
      | .fault _ | .refused _ => false) = true ∧
    (match hostMove (.write 0x004 0x00000012) { State.reset with ie := true, done := true, busyWr := true } with
      | .next t => decide (t.done = false ∧ t.busyWr = false ∧ irq t = false)
      | .fault _ | .refused _ => false) = true ∧
    (match hostMove (.write 0x000 0x00000004) (accept 0x2 { State.reset with rounds := 3 }) with
      | .next t => decide (t.busy = false ∧ t.pending = none ∧ t.done = false ∧ t.rounds = 20)
      | .fault _ | .refused _ => false) = true := by decide +kernel

/-- R121: LOADKEY of five bytes writes two words and KEY_LEN; RUN writes CMD and waits. -/
theorem test_script :
    scriptLoadKey platform [0x01, 0x02, 0x03, 0x04, 0x05] =
      [.host (.write 0x40000100 0x04030201), .host (.write 0x40000104 0x00000005), .host (.write 0x40000014 0x00000005)] ∧
    scriptRun platform .encCbc = [.host (.write 0x40000008 0x00000004), .wait] := by decide +kernel

/-- R89: a bus address is BASE plus the offset: ROUNDS (offset 0x010) reads its reset value 20; below BASE stands no register. -/
theorem test_bus_access :
    (match step { onPlatform with script := [.host (.read 0x40000010)] } with
      | .next t => t.rdata
      | .fault _ | .refused _ => 0) = 0x00000014 ∧
    busTurn platform (.read 0x3FFFFFFC) = .elsewhere := by decide +kernel

/-- R32, R33: offset 0x6000 is unmapped: it reads 0, and a write there while busy is dropped and marks BUSY_WR (R273). -/
theorem test_unmapped_above_space :
    reads 0x6000 State.reset = some 0 ∧
    (match hostMove (.write 0x6000 0xFF) (accept 0x0 State.reset) with
      | .next t => decide (t.busyWr = true)
      | .fault _ | .refused _ => false) = true := by decide +kernel

/-! A witness for each statement with hypotheses: a state and operands that meet them, at the ends of their ranges. -/

/-- A running command. -/
def running (w : Nat) : State := State.reset.withFetchWord 32 w

/-- A state with these events still to come. -/
def scripted (es : List Event) (s : State) : State := setScript es s

theorem witness_DecodeOfEncodeIsIdentity :
    Instr.unpad.wellFormed = true ∧ (Instr.illegalCF 3).wellFormed = true ∧ (Instr.illegalRsv 1 0).wellFormed = true ∧
    (Instr.illegalRsv 0xFFFFFFF 15).wellFormed = true := by decide

theorem witness_ExactlyTenWordsAreCommands : (decode 9).isCommand = true ∧ (decode 10).isCommand = false := by decide

theorem witness_StepRunsLatchedCommand :
    ((scripted [] (running 0)).pending = some { word := 0, keychk := false } ∧ (scripted [] (running 0)).script = []) ∧
    ((running 0).pending = some { word := 0, keychk := false } ∧ (running 0).script = .engine :: []) ∧
    ((scripted [.wait] (running 0)).pending = some { word := 0, keychk := false } ∧
      (scripted [.wait] (running 0)).script = .wait :: [] ∧ (scripted [.wait] (running 0)).busy = true) ∧
    4294967295 < 2 ^ 32 := by decide

theorem witness_StepMakesHostMove :
    (let s := scripted [.host (.write 0x40006000 1)] onPlatform;
      s.script = .host (.write (s.cfg.base + 0x6000) 1) :: []) ∧
    (let s := scripted [.host (.read 0x40000000)] onPlatform;
      s.script = .host (.read (s.cfg.base + 0x000)) :: []) ∧
    (scripted [.host .reset] State.reset).script = .host .reset :: [] ∧
    (let s := scripted [.host (.read 0x3FFFFFFC)] onPlatform;
      0x3FFFFFFC < s.cfg.base ∧ s.script = .host (.read 0x3FFFFFFC) :: []) ∧
    ((scripted [.wait] State.reset).script = .wait :: [] ∧ (scripted [.wait] State.reset).busy = false) ∧
    (State.reset.pending = none ∧ State.reset.script = []) ∧
    ((scripted [.engine] State.reset).pending = none ∧ (scripted [.engine] State.reset).script = .engine :: []) := by decide

/-- Both sides of the statement occur. -/
theorem witness_OnlyForeignAccessesStop :
    AccessOk 0x000 ∧ AccessOk 0x6000 ∧ ¬ AccessOk 0x002 ∧ ¬ AccessOk 0x6001 ∧ ¬ 0x40000000 < onPlatform.cfg.base ∧
    (let s := scripted [.host (.read 0x3FFFFFFF)] onPlatform;
      0x3FFFFFFF < s.cfg.base ∧ s.script = .host (.read 0x3FFFFFFF) :: []) ∧
    (let s := scripted [.host (.write 0x40000002 0)] onPlatform;
      ¬ AccessOk (0x40000002 - s.cfg.base) ∧ s.script = .host (.write 0x40000002 0) :: []) := by decide

theorem witness_WrittenCommandCompletes :
    let s := scripted [.host (.write 0x40000008 0x2), .engine] onPlatform
    s.busy = false ∧ s.script = .host (.write (s.cfg.base + 0x008) 0x2) :: .engine :: [] := by decide

theorem witness_CommandWriteWhileIdleIsAccepted : State.reset.busy = false := by decide

theorem witness_WritesWhileBusyAreDropped :
    (running 0).busy = true ∧ (AccessOk 0x008 ∧ 0x008 ≠ 0x000 ∧ 0x008 ≠ 0x004) ∧
    (AccessOk 0x6000 ∧ 0x6000 ≠ 0x000 ∧ 0x6000 ≠ 0x004) ∧
    (AccessOk 0x000 ∧ (3 : Word).getLsbD 2 = false ∧ (4 : Word).getLsbD 2 = true) ∧ AccessOk 0x004 := by
  decide

theorem witness_ControlRegister : (3 : Word).getLsbD 2 = false ∧ (4 : Word).getLsbD 2 = true := by decide

theorem witness_StatusReadShowsFlags :
    (∀ l, State.reset.pending = some l → decode l.word ≠ .keyExpand) ∧
    (∀ l, (running 0x0).pending = some l → decode l.word ≠ .keyExpand) := by
  refine ⟨fun l h => ?_, fun l h => ?_⟩ <;> cases h
  decide

theorem witness_IdleWritesReachInputRegisters : State.reset.busy = false := by decide

/-- Each register of the statement, with its mask. -/
theorem witness_InputRegistersReadBack :
    State.reset.busy = false ∧ ∀ p ∈ [((0x010 : Nat), (0xFF : Word)), (0x014, 0xFFFF), (0x018, 0xFF), (0x01C, 0xFFFF),
        (0x030, 0xFFFFFFFF), (0x034, 0xFFFFFFFF), (0x038, 0xFFFFFFFF), (0x03C, 0xFFFFFFFF)],
      (p.1 = 0x010 ∧ p.2 = 0xFF) ∨ (p.1 = 0x014 ∧ p.2 = 0xFFFF) ∨ (p.1 = 0x018 ∧ p.2 = 0xFF) ∨ (p.1 = 0x01C ∧ p.2 = 0xFFFF) ∨
        ((p.1 = 0x030 ∨ p.1 = 0x034 ∨ p.1 = 0x038 ∨ p.1 = 0x03C) ∧ p.2 = 0xFFFFFFFF) := by decide

theorem witness_KeyWindowWritesKeybuf :
    State.reset.cfg.Legal ∧ State.reset.busy = false ∧ 4 * 0 < State.reset.cfg.keyMaxBytes ∧
    4 * 63 < State.reset.cfg.keyMaxBytes ∧ ((running 0).cfg.Legal ∧ (running 0).busy = true ∧ 4 * 63 < (running 0).cfg.keyMaxBytes) := by
  decide

theorem witness_InputWindowWritesInbuf :
    (State.reset.cfg.Legal ∧ State.reset.busy = false ∧ 4 * 0 < State.reset.cfg.nBuf ∧ 4 * 1023 < State.reset.cfg.nBuf) ∧
    (let s := accept 0x2 (keyed schedK16 20 hw);
      s.cfg.Legal ∧ s.busy = true ∧ 4 * 3 < s.cfg.nBuf ∧ 0 < 4 ∧ Memory.read s.inbuf (4 * 3 + 0) = some 0x21) := by decide

/-- The ends of each range of the statement; none lies in two ranges. -/
theorem witness_ReadOnlyAndUnmappedIgnoreWrites :
    State.reset.cfg.Legal ∧ State.reset.busy = false ∧
    (AccessOk 0x00C ∧ AccessOk 0x020 ∧ AccessOk 0x024 ∧ AccessOk 0x4000 ∧ AccessOk 0x500C ∧
      0x500C < 0x4000 + State.reset.cfg.nOut) ∧
    (AccessOk 0x028 ∧ AccessOk 0x02C ∧ AccessOk 0x040 ∧ AccessOk 0x0FC ∧
      AccessOk 0x200 ∧ 0x100 + State.reset.cfg.keyMaxBytes ≤ 0x200 ∧ AccessOk 0x1FFC ∧
      AccessOk 0x3000 ∧ 0x2000 + State.reset.cfg.nBuf ≤ 0x3000 ∧ AccessOk 0x3FFC ∧
      AccessOk 0x5010 ∧ 0x4000 + State.reset.cfg.nOut ≤ 0x5010 ∧ AccessOk 0x6000) ∧
    AccessOk 0x008 := by decide

theorem witness_LocationsHaveOneOffset :
    State.reset.cfg.Legal ∧ (AccessOk 0x03C ∧ locate State.reset.cfg 0x03C ≠ .unmapped) ∧
    (AccessOk 0x1FC ∧ locate State.reset.cfg 0x1FC ≠ .unmapped) ∧
    (AccessOk 0x500C ∧ locate State.reset.cfg 0x500C ≠ .unmapped) := by decide

theorem witness_ReadsHaveNoSideEffect : AccessOk 0x000 ∧ AccessOk 0x6000 := by decide

/-- The last byte of an output of six bytes, in its second word. -/
theorem witness_OutputWindowShowsOutput :
    let s : State := { State.reset with outLen := 6, outbuf := bufferOf [1, 2, 3, 4, 5, 6] }
    s.cfg.Legal ∧ s.busy = false ∧ 4 * 1 < s.cfg.nOut ∧ 1 < 4 ∧ 4 * 1 + 1 < s.outLen.toNat ∧
    Memory.read s.outbuf (4 * 1 + 1) = some 6 := by decide

theorem witness_IdleReadsShowResultRegisters : State.reset.busy = false := by decide

/-- ENC_ECB runs, with an input, on the window's words at both ends and an unmapped offset. -/
theorem witness_BusyReads :
    let s := accept 0x2 (keyed schedK16 20 hw)
    s.Inv ∧ s.busy = true ∧ (4 * 3 < s.cfg.nBuf ∧ 0 < 4 ∧ Memory.read s.inbuf (4 * 3 + 0) = some 0x21) ∧
    (4 * 0 < s.cfg.keyMaxBytes ∧ 4 * 63 < s.cfg.keyMaxBytes) ∧
    (AccessOk 0x028 ∧ locate s.cfg 0x028 = .unmapped) ∧ (AccessOk 0x6000 ∧ locate s.cfg 0x6000 = .unmapped) ∧
    decode 0x2 ≠ .keyExpand := by
  refine ⟨?_, ?_⟩ <;> decide +kernel

theorem witness_BothResetsGiveResetValues : (4 : Word).getLsbD 2 = true ∧ (0xFFFFFFFF : Word).getLsbD 2 = true := by decide

theorem witness_InterruptIsLevelOfDone : State.reset.busy = false ∧ (2 : Word).getLsbD 1 = true := by decide

theorem witness_IllegalWordsCompleteWithIllegalCmd :
    ((0x10 : Word).extractLsb' 4 28 ≠ 0) ∧ ((0xFFFFFFFF : Word).extractLsb' 4 28 ≠ 0) ∧
    (0xA ≤ (0xA : Word).toNat ∧ (0xF : Word).toNat ≤ 0xF) := by decide

theorem witness_DoneStaysUntilAcknowledged :
    (∃ t, step { State.reset with done := true } = .next t) ∧ ({ State.reset with done := true } : State).done = true :=
  ⟨⟨_, rfl⟩, rfl⟩

/-- The longest and the shortest key, the most and the fewest rounds; each of the four error cases, the second with an R_MAX below
the largest value of ROUNDS. -/
theorem witness_KeyExpandCommitsSchedule :
    (let s : State := { State.reset with rounds := 255, keyLen := 256, keychk := true };
      1 ≤ s.rounds.toNat ∧ s.rounds.toNat ≤ s.cfg.rMax ∧ s.keyLen.toNat ≤ s.cfg.keyMaxBytes ∧
      (s.keyLen.toNat = 0 → keychkOp s = false)) ∧
    (let s : State := { State.reset with rounds := 1, keyLen := 0 };
      1 ≤ s.rounds.toNat ∧ s.rounds.toNat ≤ s.cfg.rMax ∧ s.keyLen.toNat ≤ s.cfg.keyMaxBytes ∧
      (s.keyLen.toNat = 0 → keychkOp s = false)) ∧
    (let s : State := { State.reset with rounds := 0 };
      s.rounds.toNat = 0 ∨ s.cfg.rMax < s.rounds.toNat) ∧
    (let s : State := { State.reset with rounds := 17, cfg := { State.reset.cfg with rMax := 16 } };
      s.rounds.toNat = 0 ∨ s.cfg.rMax < s.rounds.toNat) ∧
    (let s : State := { State.reset with keyLen := 257 };
      (1 ≤ s.rounds.toNat ∧ s.rounds.toNat ≤ s.cfg.rMax) ∧ s.cfg.keyMaxBytes < s.keyLen.toNat) ∧
    (let s : State := { State.reset with keychk := true };
      (1 ≤ s.rounds.toNat ∧ s.rounds.toNat ≤ s.cfg.rMax) ∧ s.keyLen.toNat ≤ s.cfg.keyMaxBytes ∧
      s.keyLen.toNat = 0 ∧ keychkOp s = true) := by decide

theorem witness_OutputStaysUntilDataCommandOrReset : ∃ t, step (running 0x9) = .next t := ⟨_, rfl⟩

/-- Two states with the same key of one byte, one with a stale byte beyond it and other inputs. -/
theorem witness_KeyBytesBeyondLengthDoNotMatter :
    let s := withKey [7] 1
    let s' : State := { withKey [7] 1 with keybuf := [(0, 7), (1, 8)], inLen := 5 }
    s'.rounds = s.rounds ∧ s'.keyLen = s.keyLen ∧
    (∀ a, a < s.keyLen.toNat → ∃ b, Memory.read s.keybuf a = some b ∧ Memory.read s'.keybuf a = some b) ∧
    (∃ t, exec .keyExpand s = .next t ∧ t.errCode = 0) ∧ (∃ t, exec .keyExpand s' = .next t ∧ t.errCode = 0) ∧
    (∀ a, a < s.keyLen.toNat → Memory.read [(0, 7), (1, 9)] a = Memory.read s.keybuf a) := by
  refine ⟨rfl, rfl, ?_, ⟨_, rfl, rfl⟩, ⟨_, rfl, rfl⟩, by decide⟩
  intro a ha
  obtain rfl : a = 0 := Nat.lt_one_iff.mp ha
  exact ⟨7, rfl, rfl⟩

/-- No key; a length above N_BUF; an input of no bytes; the longest one. -/
theorem witness_EcbCommandsSucceed :
    (State.reset.cfg.Legal ∧ State.reset.keyValid = false) ∧
    (let s : State := { keyed schedK16 20 [] with inLen := 4097 };
      s.cfg.Legal ∧ s.keyValid = true ∧ s.cfg.nBuf < s.inLen.toNat) ∧
    (let s := keyed schedK16 20 [];
      s.cfg.Legal ∧ s.keyValid = true ∧ s.inLen.toNat ≤ s.cfg.nBuf ∧ s.inLen.toNat = 0) ∧
    (let s : State := { keyed schedK16 20 [] with inLen := 4096 };
      s.cfg.Legal ∧ s.keyValid = true ∧ s.inLen.toNat ≤ s.cfg.nBuf ∧ s.inLen.toNat ≠ 0 ∧ s.inLen.toNat % 16 = 0) := by decide

theorem witness_CbcCommandsSucceed :
    (State.reset.cfg.Legal ∧ State.reset.keyValid = false) ∧
    (let s : State := { keyedIv [] with inLen := 4097 };
      s.cfg.Legal ∧ s.keyValid = true ∧ s.cfg.nBuf < s.inLen.toNat) ∧
    (let s : State := { keyedIv foxCbc with ivLen := 17 };
      s.cfg.Legal ∧ s.keyValid = true ∧ s.inLen.toNat ≤ s.cfg.nBuf ∧ s.ivLen.toNat ≠ 16) ∧
    (let s := keyedIv fox;
      s.cfg.Legal ∧ s.keyValid = true ∧ s.inLen.toNat ≤ s.cfg.nBuf ∧ s.ivLen.toNat = 16 ∧ s.inLen.toNat % 16 ≠ 0) ∧
    (let s := keyedIv foxCbc;
      s.cfg.Legal ∧ s.keyValid = true ∧ s.inLen.toNat ≤ s.cfg.nBuf ∧ s.ivLen.toNat = 16 ∧ s.inLen.toNat ≠ 0 ∧
      s.inLen.toNat % 16 = 0) := by decide

theorem witness_BlockCommandsSucceed :
    (State.reset.cfg.Legal ∧ State.reset.keyValid = false) ∧
    (let s : State := { keyed schedK16 20 [] with inLen := 4097 };
      s.cfg.Legal ∧ s.keyValid = true ∧ s.cfg.nBuf < s.inLen.toNat) ∧
    (let s : State := { keyed schedK16 20 [] with inLen := 17 };
      s.cfg.Legal ∧ s.keyValid = true ∧ s.inLen.toNat ≤ s.cfg.nBuf ∧ s.inLen.toNat ≠ 16) ∧
    (let s := keyed schedK16r1 1 (rep 16 0);
      s.cfg.Legal ∧ s.keyValid = true ∧ s.inLen.toNat = 16) := by decide

theorem witness_PaddingCommandsSucceed :
    (let s : State := { State.reset with inLen := 4097 };
      s.cfg.Legal ∧ s.cfg.nBuf < s.inLen.toNat) ∧
    (State.reset.cfg.Legal ∧ State.reset.inLen.toNat ≤ State.reset.cfg.nBuf ∧ State.reset.inLen.toNat = 0) ∧
    (let s := keyed [] 0 (rep 16 0);
      s.cfg.Legal ∧ s.inLen.toNat ≤ s.cfg.nBuf ∧ s.inLen.toNat ≠ 0 ∧ s.inLen.toNat % 16 = 0) := by decide

theorem witness_ErrorsInPriority :
    10 ≤ (10 : Word).toNat ∧ 10 ≤ (0xFFFFFFFF : Word).toNat ∧ Instr.encEcb.isData = true ∧ Instr.unpad.isData = true := by decide

/-- One block, whose decryption ends in the byte 2 (V-BT-10), with IV_LEN = 16 and, for the ECB commands, with IV_LEN = 0. -/
theorem witness_ModeOutputLengths :
    (let s := keyedIv (rep 16 0);
      s.cfg.Legal ∧ s.keyValid = true ∧ s.inLen.toNat ≤ s.cfg.nBuf ∧ s.ivLen.toNat = 16 ∧ s.inLen.toNat ≠ 0 ∧
      s.inLen.toNat % 16 = 0) ∧
    (let s := keyed schedK16 20 (rep 16 0);
      s.cfg.Legal ∧ s.keyValid = true ∧ s.inLen.toNat ≤ s.cfg.nBuf ∧ s.ivLen.toNat = 0 ∧ s.inLen.toNat ≠ 0 ∧
      s.inLen.toNat % 16 = 0 ∧
      ((blocks (inputBytes s)).flatMap (decBlock (schedWord s) s.ksRounds.toNat)).getLast? = some 2) := by decide +kernel

theorem witness_BytesToWordsFormula : 1 < ((hw.take 5).length + 3) / 4 := by decide

theorem witness_WordsToBytesUndoesBytesToWords : 1 < [(5 : Word), 6].length ∧ 3 < 4 := by decide

theorem witness_RotateRightUndoesRotateLeft : 32 % 32 = 0 := by decide

theorem witness_InitialScheduleIsArithmetic : 5 < 2 * (1 + 2) := by decide

theorem witness_ShortZeroKeysShareOneSchedule : (1 ≤ 1 ∧ 1 ≤ 4) ∧ (1 ≤ 4 ∧ 4 ≤ 4) := by decide

theorem witness_DecryptInvertsEncrypt : (rep 16 0).length = 16 := by decide

/-- Two schedules that differ from word 6 on. -/
theorem witness_TransformReadsHeldScheduleOnly :
    (∀ i, i < 2 * (1 + 2) → wordsOf schedK16r1 i = wordsOf (schedK16r1 ++ [1]) i) ∧
    wordsOf schedK16r1 6 ≠ wordsOf (schedK16r1 ++ [1]) 6 := by decide

theorem witness_PadLength :
    Params.frceRc32x128.Legal ∧ fox.length ≤ Params.frceRc32x128.nBuf ∧
    (0x05 : Byte) ∈ (pad fox).drop fox.length := by decide

theorem witness_UnpadLooksAtLastByteOnly :
    15 ≤ (rep 15 0).length ∧ (1 ≤ (0x01 : Byte).toNat ∧ (0x01 : Byte).toNat ≤ 16) ∧
    (1 ≤ (0x10 : Byte).toNat ∧ (0x10 : Byte).toNat ≤ 16) ∧ (0x00 : Byte).toNat = 0 ∧ 16 < (0x11 : Byte).toNat := by decide

theorem witness_ModesRoundTrip : (k16).length = 16 := by decide

/-- The first and the last block. -/
theorem witness_CiphertextBlocks : k16.length = 16 ∧ 16 * 0 < (pad fox).length ∧ 16 * 2 < (pad fox).length := by decide

theorem witness_WrongIvCorruptsFirstBlockOnly :
    k16.length = 16 ∧ (rep 16 0).length = 16 ∧ 16 < foxCbc.length ∧ foxCbc.length % 16 = 0 := by decide

/-- From reset, and the completion of a data command. -/
theorem witness_EveryStepKeepsInvariant :
    (State.reset.Inv ∧ ∃ t, step State.reset = .next t) ∧ ((running 0x8).Inv ∧ ∃ t, step (running 0x8) = .next t) :=
  ⟨⟨by decide, ⟨_, rfl⟩⟩, ⟨by decide, ⟨_, rfl⟩⟩⟩

theorem witness_OnlyKeyExpandAndResetWriteSchedule :
    (∃ t, step (running 0x0) = .next t) ∧
    (let s := scripted [.host (.write 0x40000000 0x4)] onPlatform;
      (∃ t, step s = .next t) ∧ s.script = .host (.write (s.cfg.base + 0x000) 0x4) :: []) :=
  ⟨⟨_, rfl⟩, ⟨_, rfl⟩, rfl⟩

/-- A dropped write of the key length and a read of STATUS while ENC_ECB runs. -/
theorem witness_HostMovesWhileBusyDoNotChangeResult :
    let ms : List BusMove := [.write 0x40000014 0x5, .read 0x40000004]
    let s := scripted (ms.map Event.host ++ [.engine]) (onPlatform.withFetchWord 32 0x2)
    s.busy = true ∧ s.pending = some { word := 0x2, keychk := false } ∧ s.script = ms.map Event.host ++ [.engine] ∧
    (∀ m ∈ ms, m.NoReset s.cfg) ∧ ∃ t, Sys2Proof.core.run ms.length s = .next t := by
  refine ⟨rfl, rfl, rfl, ?_, ⟨_, rfl⟩⟩
  intro m hm h hh
  rcases List.mem_cons.mp hm with rfl | hm
  · cases hh
    intro h0
    cases h0
  · obtain rfl := List.mem_singleton.mp hm
    cases hh
    trivial

/-- Two states with different keys, at the engine's turn while PAD runs, and at a host read while ENC_ECB runs. -/
theorem witness_KeyIsNotReadable :
    (SameButKey (running 0x8) { running 0x8 with keybuf := [(0, 1)] } ∧
      (∀ l, (running 0x8).pending = some l → (decode l.word).isCipher = false) ∧ ∃ t, step (running 0x8) = .next t) ∧
    (let s := scripted [.host (.read 0x40000100)] (onPlatform.withFetchWord 32 0x2);
      SameButKey s { s with keybuf := [(0, 1)] } ∧ (nextTurn s).1 ≠ .engine ∧ ∃ t, step s = .next t) := by
  refine ⟨⟨rfl, fun l h => ?_, ⟨_, rfl⟩⟩, rfl, by decide, ⟨_, rfl⟩⟩
  cases h
  decide

end Sys2Proof.Tests
end

section
/-! The register map said once for any offset (10_state.md R32). -/

namespace Sys2Proof.Machine

/-- An offset is a register's own, which is below 0x40, or it is looked up among the windows (R32). -/
theorem locate_cases (p : Params) (off : Nat) :
    (off < 0x40 ∧ offsetOf (locate p off) = some off) ∨ locate p off = locateWindow p off := by
  unfold locate
  split
  case h_15 => exact .inr rfl
  all_goals exact .inl ⟨by decide, rfl⟩

theorem locate_keyw_bound {p : Params} (hp : p.Legal) {off k : Nat} (ha : off % 4 = 0) (h : locate p off = .keyw k) :
    4 * k + 4 ≤ p.keyMaxBytes := by
  obtain ⟨_, ⟨hk, _⟩, _⟩ := hp
  rcases locate_cases p off with ⟨hlt, ho⟩ | hw
  · rw [h, offsetOf, Option.some.injEq] at ho
    omega
  · exact locateWindow_bounds.1 k (hw ▸ h) ha hk

theorem locate_inw_bound {p : Params} (hp : p.Legal) {off k : Nat} (ha : off % 4 = 0) (h : locate p off = .inw k) :
    4 * k + 4 ≤ p.nBuf := by
  obtain ⟨_, _, ⟨hn, _⟩⟩ := hp
  rcases locate_cases p off with ⟨hlt, ho⟩ | hw
  · rw [h, offsetOf, Option.some.injEq] at ho
    omega
  · exact locateWindow_bounds.2 k (hw ▸ h) ha (by omega)

end Sys2Proof.Machine
end

section
/-! Every operation keeps the machine's invariant, and so does every step (10_state.md R42, R43, R47, R52, R60). -/

namespace Sys2Proof.Machine

section Operations

variable {s : State}

/-! The host's moves. -/

theorem setScript_inv (es : List Event) (h : s.Inv) : (setScript es s).Inv := h

theorem finishRead_inv (v : Word) (h : s.Inv) : (finishRead v s).Inv := h

theorem dropWrite_inv (h : s.Inv) : (dropWrite s).Inv := h

theorem resetNow_inv (hp : s.cfg.Legal) : (resetNow s).Inv := by
  refine ⟨hp, ?_⟩
  simp

theorem accept_inv (w : Word) (h : s.Inv) : (accept w s).Inv := by
  obtain ⟨hcfg, _, _, _, hrest⟩ := h
  exact ⟨hcfg, rfl, fun _ => ⟨rfl, rfl⟩, by simp, hrest⟩

theorem writeCtrl_inv (v : Word) (h : s.Inv) : (writeCtrl v s).Inv := by
  unfold writeCtrl
  split
  · exact resetNow_inv h.1
  · exact h

/-- Clearing DONE keeps it clear while busy. -/
theorem writeStatus_inv (v : Word) (h : s.Inv) : (writeStatus v s).Inv := by
  obtain ⟨hcfg, hbusy, hclear, hrest⟩ := h
  rw [writeStatus_eq]
  refine ⟨hcfg, hbusy, fun hb => ?_, hrest⟩
  obtain ⟨hd, he⟩ := hclear hb
  exact ⟨by simp [hd], he⟩

theorem writeCmd_inv (v : Word) (h : s.Inv) : (writeCmd v s).Inv := by
  unfold writeCmd
  split
  · exact dropWrite_inv h
  · exact accept_inv v h

/-- An idle write inside the windows keeps the buffers in canonical form. -/
theorem writeIdle_inv {l : Loc} (v : Word) (hk : ∀ k, l = .keyw k → 4 * k + 4 ≤ s.cfg.keyMaxBytes)
    (hi : ∀ k, l = .inw k → 4 * k + 4 ≤ s.cfg.nBuf) (h : s.Inv) : (writeIdle l v s).Inv := by
  cases l
  case keyw k =>
    obtain ⟨hcfg, hbusy, hclear, hcode, hvalid, hnone, hkey, hrest⟩ := h
    exact ⟨hcfg, hbusy, hclear, hcode, hvalid, hnone, Memory.wf_writeBytes _ (hk k rfl) hkey, hrest⟩
  case inw k =>
    obtain ⟨hcfg, hbusy, hclear, hcode, hvalid, hnone, hkey, hin, hrest⟩ := h
    exact ⟨hcfg, hbusy, hclear, hcode, hvalid, hnone, hkey, Memory.wf_writeBytes _ (hi k rfl) hin, hrest⟩
  all_goals exact h

theorem writeLoc_inv {off : Nat} (v : Word) (ha : off % 4 = 0) (h : s.Inv) :
    (writeLoc (locate s.cfg off) v s).Inv := by
  rcases writeLoc_cases (locate s.cfg off) v s with ⟨_, e⟩ | ⟨_, e⟩ | ⟨_, e⟩ | ⟨_, e⟩ | ⟨_, e⟩ <;> rw [e]
  · exact writeCtrl_inv v h
  · exact writeStatus_inv v h
  · exact writeCmd_inv v h
  · exact dropWrite_inv h
  · exact writeIdle_inv v (fun _ => locate_keyw_bound h.1 ha) (fun _ => locate_inw_bound h.1 ha) h

theorem hostMove_inv {m : HostMove} {t : State} (h : s.Inv) (hm : hostMove m s = .next t) : t.Inv := by
  rcases hostMove_cases hm with ⟨off, v, _, ha, rfl⟩ | ⟨off, _, _, rfl⟩ | ⟨_, rfl⟩
  · exact writeLoc_inv v ha h
  · exact finishRead_inv _ h
  · exact resetNow_inv h.1

/-! The engine's turn. -/

theorem endCommand_inv {code : BitVec 4} (hc : code.toNat ≤ 9) (h : s.Inv) : (endCommand code s).Inv := by
  obtain ⟨hcfg, _, _, _, hrest⟩ := h
  exact ⟨hcfg, rfl, fun hb => absurd hb (by simp), hc, hrest⟩

theorem forgetOutput_inv (h : s.Inv) : (forgetOutput s).Inv := by
  obtain ⟨hcfg, hbusy, hclear, hcode, hvalid, hnone, hkey, hin, _⟩ := h
  exact ⟨hcfg, hbusy, hclear, hcode, hvalid, hnone, hkey, hin, by simp⟩

/-- An output within N_OUT is listed in OUTBUF byte for byte: OUT_LEN is wide enough for its length (R42, R47). -/
theorem writeOutput_inv {out : List Byte} (hl : out.length ≤ s.cfg.nOut) (h : s.Inv) : (writeOutput out s).Inv := by
  obtain ⟨hcfg, hbusy, hclear, hcode, hvalid, hnone, hkey, hin, _⟩ := h
  have hlen : (BitVec.ofNat 16 out.length).toNat = out.length := by
    obtain ⟨_, _, ⟨_, _, hn⟩⟩ := hcfg
    rw [Params.nOut] at hl
    rw [BitVec.toNat_ofNat]
    omega
  refine ⟨hcfg, hbusy, hclear, hcode, hvalid, hnone, hkey, hin, ?_, ?_, ?_⟩
  · exact Memory.wf_writeBytes out (by simpa using hl) (Memory.wf_nil _)
  · rwa [writeOutput_outLen, hlen, writeOutput_cfg]
  · rw [writeOutput_outbuf, writeOutput_outLen, hlen, Memory.indices_writeBytes_nil]

theorem rounds_legal_of_keyExpandChecks (h : firstError (keyExpandChecks s) = none) :
    1 ≤ s.rounds.toNat ∧ s.rounds.toNat ≤ s.cfg.rMax :=
  (badRounds_eq_false s).mp (firstError_eq_none.mp h _ (List.mem_cons_self ..))

/-- A committed schedule has the length of its legal round count (R43, R52). -/
theorem commitSchedule_inv {sched : List Word} (hr : 1 ≤ s.rounds.toNat ∧ s.rounds.toNat ≤ s.cfg.rMax)
    (hl : sched.length = schedLen s.rounds.toNat) (h : s.Inv) : (commitSchedule sched s).Inv := by
  obtain ⟨hcfg, hbusy, hclear, hcode, _, _, hrest⟩ := h
  exact ⟨hcfg, hbusy, hclear, hcode, fun _ => ⟨hr, hl⟩, fun hv => absurd hv (by simp), hrest⟩

theorem exec_inv {i : Instr} {t : State} (h : s.Inv) (he : exec i s = .next t) : t.Inv := by
  rcases exec_cases i s with ⟨_, code, hc, e⟩ | ⟨_, hn, e⟩ | ⟨_, out, hl, e⟩ | ⟨_, err, e⟩ <;> rw [e] at he <;> cases he
  · exact endCommand_inv hc h
  · exact endCommand_inv (by decide) (commitSchedule_inv (rounds_legal_of_keyExpandChecks hn) (expand_length _ _) h)
  · exact endCommand_inv (by decide) (writeOutput_inv (hl h.1) h)
  · exact endCommand_inv (by cases err <;> decide) (forgetOutput_inv h)

end Operations

/-- Settles O57: a step is a host move, a command's completion or an idle turn, and each keeps the invariant. -/
theorem everyStepKeepsInvariant : Obligations.EveryStepKeepsInvariant := by
  intro s t h hs
  obtain ⟨es, ⟨_, _, hm⟩ | ⟨_, _, _, he⟩ | ⟨_, _, rfl⟩⟩ := step_cases hs
  · exact hostMove_inv (setScript_inv es h) hm
  · exact exec_inv (setScript_inv es h) he
  · exact setScript_inv es h

/-- Settles O56. -/
theorem invariantAtReset : Obligations.InvariantAtReset := by
  unfold Obligations.InvariantAtReset
  decide

end Sys2Proof.Machine
end

section
/-! What a host write and a host read at each location of the register map do (10_state.md R30 to R47). -/

namespace Sys2Proof.Machine

/-! The map. -/

theorem offsetOf_locateWindow {p : Params} {off : Nat} (ha : off % 4 = 0) (h : locateWindow p off ≠ .unmapped) :
    offsetOf (locateWindow p off) = some off := by
  unfold locateWindow at h ⊢
  split_ifs at h ⊢
  · exact congrArg some (by omega)
  · exact congrArg some (by omega)
  · exact congrArg some (by omega)
  · exact absurd rfl h

/-- Settles O19. -/
theorem locationsHaveOneOffset : Obligations.LocationsHaveOneOffset := by
  intro p off _ ha h
  rcases locate_cases p off with ⟨_, ho⟩ | hw
  · exact ho
  · rw [hw] at h ⊢
    exact offsetOf_locateWindow ha h

/-- The gaps of the map between the registers and the windows, and all above the windows (R32). -/
theorem locate_gap {p : Params} (hp : p.Legal) {off : Nat} (ha : off % 4 = 0)
    (h : (0x028 ≤ off ∧ off ≤ 0x02C) ∨ (0x040 ≤ off ∧ off ≤ 0x0FC) ∨ (0x100 + p.keyMaxBytes ≤ off ∧ off ≤ 0x1FFC) ∨
      (0x2000 + p.nBuf ≤ off ∧ off ≤ 0x3FFC) ∨ 0x4000 + p.nOut ≤ off) : locate p off = .unmapped := by
  obtain ⟨_, ⟨_, _, hk⟩, ⟨_, _, hn⟩⟩ := hp
  have hout : p.nOut = p.nBuf + 16 := rfl
  have hw : locate p off = locateWindow p off := by
    by_cases h40 : 0x40 ≤ off
    · exact locate_of_ge p h40
    · obtain rfl | rfl : off = 0x028 ∨ off = 0x02C := by omega
      · rfl
      · rfl
  rw [hw, locateWindow, if_neg (by omega), if_neg (by omega), if_neg (by omega)]

/-! Accesses at a known location. -/

/-- An idle write to a location without a rule of its own for writes while busy. -/
theorem writeLoc_idle {l : Loc} {v : Word} {s : State} (hb : s.busy = false) (h0 : l ≠ .ctrl) (h4 : l ≠ .status)
    (h8 : l ≠ .cmd) : writeLoc l v s = writeIdle l v s := by
  rcases writeLoc_cases l v s with ⟨e, _⟩ | ⟨e, _⟩ | ⟨e, _⟩ | ⟨hb', _⟩ | ⟨_, e⟩
  · exact absurd e h0
  · exact absurd e h4
  · exact absurd e h8
  · exact absurd (hb.symm.trans hb') Bool.false_ne_true
  · exact e

theorem hostMove_write_idle {l : Loc} {off : Nat} {v : Word} {s : State} (hb : s.busy = false)
    (hl : locate s.cfg off = l) (ha : off % 4 = 0) (h0 : l ≠ .ctrl) (h4 : l ≠ .status) (h8 : l ≠ .cmd) :
    hostMove (.write off v) s = .next (writeIdle l v s) := by
  rw [hostMove_write v s ha, hl, writeLoc_idle hb h0 h4 h8]

theorem hostMove_read_at {l : Loc} {off : Nat} {s : State} (hl : locate s.cfg off = l) (ha : off % 4 = 0) :
    hostMove (.read off) s = .next (finishRead (readLoc l s) s) := by
  rw [hostMove_read s ha, hl]

/-- A read answers with the word of its location. -/
theorem read_returns {l : Loc} {off : Nat} {s : State} {w : Word} (hl : locate s.cfg off = l) (ha : off % 4 = 0)
    (hw : readLoc l s = w) : ∃ t, hostMove (.read off) s = .next t ∧ t.rdata = w :=
  ⟨_, hostMove_read_at hl ha, hw⟩

/-! CTRL and STATUS. -/

theorem getLsbD_ctrlWord (s : State) (n : Nat) :
    (ctrlWord s).getLsbD n = if n = 0 then s.ie else if n = 1 then s.keychk else false := by
  rw [ctrlWord, BitVec.getLsbD_or, getLsbD_bitAt _ (by decide), getLsbD_bitAt _ (by decide)]
  split_ifs <;> simp_all

/-- Settles O11. -/
theorem controlRegister : Obligations.ControlRegister := by
  refine ⟨fun s v h => ?_, fun s v h => ?_, fun s => ⟨_, hostMove_read_at (l := .ctrl) rfl rfl, getLsbD_ctrlWord s⟩⟩
  · exact congrArg Host.Outcome.next (writeCtrl_noReset h s)
  · exact congrArg Host.Outcome.next (writeCtrl_reset h s)

/-- Settles O12. -/
theorem statusWriteClearsOnes : Obligations.StatusWriteClearsOnes := fun s v =>
  congrArg Host.Outcome.next (writeStatus_eq v s)

theorem keyExpandRuns_eq_false {s : State} (h : ∀ l, s.pending = some l → decode l.word ≠ .keyExpand) :
    keyExpandRuns s = false := by
  unfold keyExpandRuns
  split
  next l hl => exact decide_eq_false (h l hl)
  next => rfl

theorem keyValidRead_eq {s : State} (h : ∀ l, s.pending = some l → decode l.word ≠ .keyExpand) :
    keyValidRead s = s.keyValid := by
  rw [keyValidRead, keyExpandRuns_eq_false h]
  rfl

/-- Settles O13: STATUS is a word of five flags. -/
theorem statusReadShowsFlags : Obligations.StatusReadShowsFlags := by
  intro s
  have hbit := getLsbD_flags s.busy s.done (keyValidRead s) (errFlag s) s.busyWr
  refine ⟨_, hostMove_read_at (l := .status) rfl rfl, hbit 0, hbit 1, fun h => ?_, ?_, hbit 4, fun n hn => ?_⟩
  · exact (hbit 2).trans (keyValidRead_eq h)
  · exact (Bool.eq_iff_iff.mp (hbit 3)).trans decide_eq_true_iff
  · refine (hbit n).trans ?_
    rw [if_neg (by omega), if_neg (by omega), if_neg (by omega), if_neg (by omega), if_neg (by omega)]

/-! The input registers. -/

/-- Settles O14. -/
theorem idleWritesReachInputRegisters : Obligations.IdleWritesReachInputRegisters := by
  intro s v hb
  have write {l : Loc} {off : Nat} := hostMove_write_idle (l := l) (off := off) (v := v) hb
  exact ⟨write (l := .rounds) rfl rfl nofun nofun nofun, write (l := .keyLen) rfl rfl nofun nofun nofun,
    write (l := .ivLen) rfl rfl nofun nofun nofun, write (l := .inLen) rfl rfl nofun nofun nofun,
    write (l := .iv0) rfl rfl nofun nofun nofun, write (l := .iv1) rfl rfl nofun nofun nofun,
    write (l := .iv2) rfl rfl nofun nofun nofun, write (l := .iv3) rfl rfl nofun nofun nofun⟩

/-- A field of the low `w` bits, widened with zeros, is the word with the bits above them cleared. -/
theorem zeroExtend_lowField (v : Word) {w : Nat} (hw : w ≤ 32) :
    (v.extractLsb' 0 w).zeroExtend 32 = v &&& BitVec.ofNat 32 (2 ^ w - 1) := by
  apply BitVec.eq_of_toNat_eq
  have hm : (2 ^ w - 1) % 2 ^ 32 = 2 ^ w - 1 :=
    Nat.mod_eq_of_lt (lt_of_lt_of_le (Nat.sub_lt (Nat.two_pow_pos w) one_pos) (Nat.pow_le_pow_right (by decide) hw))
  have hlt : v.toNat % 2 ^ w < 2 ^ 32 := lt_of_le_of_lt (Nat.mod_le ..) v.isLt
  simp only [BitVec.truncate_eq_setWidth, BitVec.toNat_setWidth, BitVec.extractLsb'_toNat, Nat.shiftRight_zero,
    BitVec.toNat_and, BitVec.toNat_ofNat, hm, Nat.and_two_pow_sub_one_eq_mod, Nat.mod_eq_of_lt hlt]

/-- The locations of the input registers and the masks of their fields (R37, R39, R40, R41, R44). -/
def inputField : Loc → Option Word
  | .rounds | .ivLen => some 0xFF
  | .keyLen | .inLen => some 0xFFFF
  | .iv0 | .iv1 | .iv2 | .iv3 => some 0xFFFFFFFF
  | _ => none

/-- What an idle write left in an input register is read with its reserved bits cleared. -/
theorem readLoc_writeIdle_inputField {l : Loc} {mask : Word} (h : inputField l = some mask) (v : Word) (s : State) :
    readLoc l (writeIdle l v s) = v &&& mask := by
  have hv : v &&& 0xFFFFFFFF = v := BitVec.and_allOnes
  cases l <;> cases h
  case rounds | ivLen => exact zeroExtend_lowField v (w := 8) (by decide)
  case keyLen | inLen => exact zeroExtend_lowField v (w := 16) (by decide)
  all_goals exact hv.symm

theorem inputField_reads_back {s : State} {l : Loc} {off : Nat} {mask : Word} (v : Word) (hb : s.busy = false)
    (hl : ∀ p, locate p off = l) (ha : off % 4 = 0) (hm : inputField l = some mask) :
    ∃ t u, hostMove (.write off v) s = .next t ∧ hostMove (.read off) t = .next u ∧ u.rdata = v &&& mask := by
  have hne {l' : Loc} (h' : inputField l' = none) : l ≠ l' := by
    rintro rfl
    cases h'.symm.trans hm
  obtain ⟨u, hu, hr⟩ := read_returns (hl _) ha (readLoc_writeIdle_inputField hm v s)
  exact ⟨_, u, hostMove_write_idle hb (hl _) ha (hne rfl) (hne rfl) (hne rfl), hu, hr⟩

/-- Settles O15. -/
theorem inputRegistersReadBack : Obligations.InputRegistersReadBack := by
  intro s v off mask hb h
  rcases h with ⟨rfl, rfl⟩ | ⟨rfl, rfl⟩ | ⟨rfl, rfl⟩ | ⟨rfl, rfl⟩ | ⟨rfl | rfl | rfl | rfl, rfl⟩
  · exact inputField_reads_back (l := .rounds) v hb (fun _ => rfl) rfl rfl
  · exact inputField_reads_back (l := .keyLen) v hb (fun _ => rfl) rfl rfl
  · exact inputField_reads_back (l := .ivLen) v hb (fun _ => rfl) rfl rfl
  · exact inputField_reads_back (l := .inLen) v hb (fun _ => rfl) rfl rfl
  · exact inputField_reads_back (l := .iv0) v hb (fun _ => rfl) rfl rfl
  · exact inputField_reads_back (l := .iv1) v hb (fun _ => rfl) rfl rfl
  · exact inputField_reads_back (l := .iv2) v hb (fun _ => rfl) rfl rfl
  · exact inputField_reads_back (l := .iv3) v hb (fun _ => rfl) rfl rfl

/-! The windows. -/

theorem read_writeWindow_inside (mem : Memory) (k : Nat) (v : Word) {m : Nat} (hm : m < 4) :
    Memory.read (writeWindow mem k v) (4 * k + m) = some (byteOf v m) := by
  rw [read_writeWindow, if_pos (by omega), Nat.add_sub_cancel_left]

theorem read_writeWindow_outside (mem : Memory) (k : Nat) (v : Word) {a : Nat} (ha : a < 4 * k ∨ 4 * k + 4 ≤ a) :
    Memory.read (writeWindow mem k v) a = Memory.read mem a := by
  rw [read_writeWindow, if_neg (by omega)]

/-- Byte `m` of a window read is the stored byte, where one is stored. -/
theorem byteOf_windowRead {stored : Nat → Option Byte} {k m : Nat} {b : Byte} (drawn : Word) (hm : m < 4)
    (hb : stored (4 * k + m) = some b) : byteOf (windowRead stored k drawn) m = b := by
  have hbytes := bytes4_packWord ((stored (4 * k)).getD (byteOf drawn 0)) ((stored (4 * k + 1)).getD (byteOf drawn 1))
    ((stored (4 * k + 2)).getD (byteOf drawn 2)) ((stored (4 * k + 3)).getD (byteOf drawn 3))
  simp only [bytes4, List.cons.injEq, and_true] at hbytes
  obtain ⟨h0, h1, h2, h3⟩ := hbytes
  interval_cases m
  · exact h0.trans (congrArg (Option.getD · _) hb)
  · exact h1.trans (congrArg (Option.getD · _) hb)
  · exact h2.trans (congrArg (Option.getD · _) hb)
  · exact h3.trans (congrArg (Option.getD · _) hb)

/-- A window word that was written reads back whole. -/
theorem windowRead_writeWindow (mem : Memory) (k : Nat) (v drawn : Word) :
    windowRead (Memory.read (writeWindow mem k v)) k drawn = v := by
  have hbyte (m : Nat) (hm : m < 4) := read_writeWindow_inside mem k v hm
  rw [windowRead, hbyte 1 (by decide), hbyte 2 (by decide), hbyte 3 (by decide), ← Nat.add_zero (4 * k),
    hbyte 0 (by decide)]
  exact packWord_byteOf v

/-- Settles O16. -/
theorem keyWindowWritesKeybuf : Obligations.KeyWindowWritesKeybuf := by
  refine ⟨fun s v k _ hb hk => ?_, fun s k _ hk => read_returns (locate_keyw hk) (by omega) rfl⟩
  exact ⟨_, hostMove_write_idle hb (locate_keyw hk) (by omega) nofun nofun nofun,
    fun m hm => read_writeWindow_inside s.keybuf k v hm, fun a ha => read_writeWindow_outside s.keybuf k v ha, rfl⟩

/-- Settles O17. -/
theorem inputWindowWritesInbuf : Obligations.InputWindowWritesInbuf := by
  refine ⟨fun s v k hp hb hk => ?_, fun s k m b hp hk hm h => ?_⟩
  · exact ⟨_, hostMove_write_idle hb (locate_inw hp hk) (by omega) nofun nofun nofun,
      fun m hm => read_writeWindow_inside s.inbuf k v hm, fun a ha => read_writeWindow_outside s.inbuf k v ha, rfl,
      read_returns (locate_inw hp hk) (by omega) (windowRead_writeWindow s.inbuf k v _)⟩
  · exact ⟨_, hostMove_read_at (locate_inw hp hk) (by omega), byteOf_windowRead _ hm h⟩

theorem readLoc_outw_idle {s : State} (hb : s.busy = false) (k : Nat) :
    readLoc (.outw k) s = windowRead (outputByte s) k (Config.freeWord s.draws) := by
  simp [readLoc, hb]

/-- Settles O21. -/
theorem outputWindowShowsOutput : Obligations.OutputWindowShowsOutput := by
  intro s k m b hp hb hk hm hlen h
  have hout : outputByte s (4 * k + m) = some b := by rw [outputByte, if_pos hlen, h]
  refine ⟨_, hostMove_read_at (locate_outw hp hk) (by omega), ?_⟩
  rw [finishRead_rdata, readLoc_outw_idle hb]
  exact byteOf_windowRead _ hm hout

/-! The read-only registers and the gaps of the map. -/

/-- Settles O22. -/
theorem idleReadsShowResultRegisters : Obligations.IdleReadsShowResultRegisters := by
  intro s hb
  refine ⟨read_returns (l := .errCode) rfl rfl rfl, read_returns (l := .outLen) rfl rfl ?_,
    read_returns (l := .ksRounds) rfl rfl ?_⟩
  · simp [readLoc, hb]
  · simp [readLoc, hb]

/-- The output window by its range of offsets. -/
theorem locate_output_window {p : Params} (hp : p.Legal) {off : Nat} (ha : off % 4 = 0) (h0 : 0x4000 ≤ off)
    (h1 : off < 0x4000 + p.nOut) : ∃ k, locate p off = .outw k := by
  obtain ⟨k, rfl⟩ : ∃ k, off = 0x4000 + 4 * k := ⟨(off - 0x4000) / 4, by omega⟩
  exact ⟨k, locate_outw hp (by omega)⟩

/-- Settles O18. -/
theorem readOnlyAndUnmappedIgnoreWrites : Obligations.ReadOnlyAndUnmappedIgnoreWrites := by
  intro s off v hp ha
  refine ⟨fun hb h => ?_, fun h => ?_, fun h8 => ?_⟩
  · rcases h with rfl | rfl | rfl | ⟨h0, h1⟩
    · exact hostMove_write_idle (l := .errCode) hb rfl rfl nofun nofun nofun
    · exact hostMove_write_idle (l := .outLen) hb rfl rfl nofun nofun nofun
    · exact hostMove_write_idle (l := .ksRounds) hb rfl rfl nofun nofun nofun
    · obtain ⟨k, hl⟩ := locate_output_window hp ha h0 h1
      exact hostMove_write_idle hb hl ha nofun nofun nofun
  · have hl := locate_gap hp ha h
    exact ⟨fun hb => hostMove_write_idle hb hl ha nofun nofun nofun, read_returns hl ha rfl⟩
  · subst h8
    exact read_returns (l := .cmd) rfl rfl rfl

end Sys2Proof.Machine
end

section
/-! What of the state a step does not touch, and what it does not look at: the held schedule, the hidden registers, the key
(10_state.md R45, R51, R59; 60_exceptions.md R315). -/

namespace Sys2Proof.Machine

/-! The held schedule. -/

theorem writeStatus_scheduleKept (v : Word) (s : State) : ScheduleKept s (writeStatus v s) := by
  rw [writeStatus_eq]
  exact ⟨rfl, rfl, rfl⟩

theorem writeCmd_scheduleKept (v : Word) (s : State) : ScheduleKept s (writeCmd v s) := by
  unfold writeCmd
  split <;> exact ⟨rfl, rfl, rfl⟩

theorem writeIdle_scheduleKept (l : Loc) (v : Word) (s : State) : ScheduleKept s (writeIdle l v s) := by
  cases l <;> exact ⟨rfl, rfl, rfl⟩

/-- A write leaves the held schedule unless it is a reset. -/
theorem writeLoc_schedule (l : Loc) (v : Word) (s : State) :
    ScheduleKept s (writeLoc l v s) ∨ (l = .ctrl ∧ v.getLsbD 2 = true) := by
  rcases writeLoc_cases l v s with ⟨hl, e⟩ | ⟨_, e⟩ | ⟨_, e⟩ | ⟨_, e⟩ | ⟨_, e⟩ <;> rw [e]
  · cases hv : v.getLsbD 2 with
    | true => exact .inr ⟨hl, rfl⟩
    | false =>
      rw [writeCtrl_noReset hv]
      exact .inl ⟨rfl, rfl, rfl⟩
  · exact .inl (writeStatus_scheduleKept v s)
  · exact .inl (writeCmd_scheduleKept v s)
  · exact .inl ⟨rfl, rfl, rfl⟩
  · exact .inl (writeIdle_scheduleKept l v s)

/-- A host move leaves the held schedule unless it is a reset, from either source (R330). -/
theorem hostMove_schedule {m : HostMove} {s t : State} (h : hostMove m s = .next t) :
    ScheduleKept s t ∨ m = .reset ∨ ∃ v, m = .write 0x000 v ∧ v.getLsbD 2 = true := by
  rcases hostMove_cases h with ⟨off, v, rfl, _, rfl⟩ | ⟨off, rfl, _, rfl⟩ | ⟨rfl, _⟩
  · rcases writeLoc_schedule (locate s.cfg off) v s with hk | ⟨hl, hv⟩
    · exact .inl hk
    · exact .inr (.inr ⟨v, by rw [locate_eq_ctrl hl], hv⟩)
  · exact .inl ⟨rfl, rfl, rfl⟩
  · exact .inr (.inl rfl)

/-- A command leaves the held schedule unless it is a KEY_EXPAND that succeeds (R51). -/
theorem exec_schedule {i : Instr} {s t : State} (h : exec i s = .next t) :
    ScheduleKept s t ∨ (i = .keyExpand ∧ t.keyValid = true ∧ t.done = true ∧ t.errCode = 0) := by
  rcases exec_cases i s with ⟨_, _, _, e⟩ | ⟨hi, _, e⟩ | ⟨_, _, _, e⟩ | ⟨_, _, e⟩ <;> rw [e] at h <;> cases h
  · exact .inl ⟨rfl, rfl, rfl⟩
  · exact .inr ⟨hi, rfl, rfl, rfl⟩
  · exact .inl ⟨rfl, rfl, rfl⟩
  · exact .inl ⟨rfl, rfl, rfl⟩

/-- Settles O58. -/
theorem onlyKeyExpandAndResetWriteSchedule : Obligations.OnlyKeyExpandAndResetWriteSchedule := by
  intro s t h
  obtain ⟨es, ⟨m, hn, hm⟩ | ⟨l, _, hp, he⟩ | ⟨_, _, rfl⟩⟩ := step_cases h
  · rcases hostMove_schedule hm with hk | rfl | ⟨v, rfl, hv⟩
    · exact .inl hk
    · obtain ⟨es', hs⟩ := script_of_reset hn
      exact .inr (.inr ⟨es', .inl hs⟩)
    · obtain ⟨es', hs⟩ := script_of_write hn
      exact .inr (.inr ⟨es', .inr ⟨v, hs, hv⟩⟩)
  · rcases exec_schedule he with hk | ⟨hi, hres⟩
    · exact .inl hk
    · exact .inr (.inl ⟨l, hp, hi, hres⟩)
  · exact .inl ⟨rfl, rfl, rfl⟩

/-! The hidden registers. -/

/-- Every completion draws the hidden registers anew (R53 to R57). -/
theorem endCommand_withHidden (c : BitVec 4) (s : State) (h : Hidden) :
    endCommand c { s with hidden := h } = endCommand c s := rfl

theorem raiseErr_withHidden (i : Instr) (e : Err) (s : State) (h : Hidden) :
    raiseErr i e { s with hidden := h } = raiseErr i e s := by
  unfold raiseErr
  split
  · exact endCommand_withHidden _ (forgetOutput s) h
  · exact endCommand_withHidden _ s h

theorem runData_withHidden (i : Instr) (cs : List (Bool × Err)) (out : List Byte) (s : State) (h : Hidden) :
    runData i cs out { s with hidden := h } = runData i cs out s := by
  unfold runData
  split
  · exact raiseErr_withHidden i _ s h
  · exact endCommand_withHidden 0 (writeOutput out s) h

theorem execKeyExpand_withHidden (s : State) (h : Hidden) :
    execKeyExpand { s with hidden := h } = execKeyExpand s := by
  have hchecks : keyExpandChecks { s with hidden := h } = keyExpandChecks s := rfl
  unfold execKeyExpand
  rw [hchecks]
  split
  · exact congrArg Host.Outcome.next (raiseErr_withHidden .keyExpand _ s h)
  · exact congrArg Host.Outcome.next (endCommand_withHidden 0 (commitSchedule _ s) h)

/-- Settles O41: the operands and checks of a command read no hidden register, and its completion draws them anew. -/
theorem hiddenStateDoesNotMatter : Obligations.HiddenStateDoesNotMatter := by
  intro i s h
  cases i
  case nop => exact congrArg Host.Outcome.next (endCommand_withHidden 0 s h)
  case keyExpand => exact execKeyExpand_withHidden s h
  case illegalAB | illegalCF | illegalRsv => exact congrArg Host.Outcome.next (raiseErr_withHidden _ .illegalCmd s h)
  all_goals exact congrArg Host.Outcome.next (runData_withHidden _ _ _ s h)

/-! The key and the schedule. -/

/-- The state with another KEYBUF and another schedule file. -/
def State.withKey (s : State) (key : Memory) (sched : List Word) : State := { s with keybuf := key, sched := sched }

theorem sameButKey_iff {s t : State} : SameButKey s t ↔ ∃ key sched, t = s.withKey key sched :=
  ⟨fun h => ⟨_, _, h⟩, by rintro ⟨key, sched, rfl⟩; rfl⟩

section WithKey

variable (s : State) (key : Memory) (sched : List Word)

/-- No register and no window shows the key or the schedule (R45). -/
theorem readLoc_withKey (l : Loc) : readLoc l (s.withKey key sched) = readLoc l s := by
  cases l <;> rfl

theorem writeIdle_withKey (l : Loc) (v : Word) :
    SameButKey (writeIdle l v s) (writeIdle l v (s.withKey key sched)) := by
  cases l <;> rfl

theorem writeStatus_withKey (v : Word) : SameButKey (writeStatus v s) (writeStatus v (s.withKey key sched)) := by
  rw [writeStatus_eq, writeStatus_eq]
  rfl

theorem writeCtrl_withKey (v : Word) : SameButKey (writeCtrl v s) (writeCtrl v (s.withKey key sched)) := by
  unfold writeCtrl
  split <;> rfl

theorem writeCmd_withKey (v : Word) : SameButKey (writeCmd v s) (writeCmd v (s.withKey key sched)) := by
  have hb : (s.withKey key sched).busy = s.busy := rfl
  unfold writeCmd
  rw [hb]
  split <;> rfl

theorem writeLoc_withKey (l : Loc) (v : Word) :
    SameButKey (writeLoc l v s) (writeLoc l v (s.withKey key sched)) := by
  cases l
  case ctrl => exact writeCtrl_withKey s key sched v
  case status => exact writeStatus_withKey s key sched v
  case cmd => exact writeCmd_withKey s key sched v
  all_goals
    have hb : (s.withKey key sched).busy = s.busy := rfl
    simp only [writeLoc, hb]
    split
    · rfl
    · exact writeIdle_withKey s key sched _ v

theorem hostMove_withKey {m : HostMove} {t : State} (h : hostMove m s = .next t) :
    ∃ t', hostMove m (s.withKey key sched) = .next t' ∧ SameButKey t t' := by
  rcases hostMove_cases h with ⟨off, v, rfl, ha, rfl⟩ | ⟨off, rfl, ha, rfl⟩ | ⟨rfl, rfl⟩
  · exact ⟨_, hostMove_write v _ ha, writeLoc_withKey s key sched _ v⟩
  · refine ⟨_, hostMove_read _ ha, ?_⟩
    rw [readLoc_withKey]
    rfl
  · exact ⟨_, rfl, rfl⟩

theorem raiseErr_withKey (i : Instr) (e : Err) :
    SameButKey (raiseErr i e s) (raiseErr i e (s.withKey key sched)) := by
  unfold raiseErr
  split <;> rfl

theorem runData_withKey (i : Instr) (cs : List (Bool × Err)) (out : List Byte) :
    SameButKey (runData i cs out s) (runData i cs out (s.withKey key sched)) := by
  unfold runData
  split
  · exact raiseErr_withKey s key sched i _
  · rfl

/-- The checks of KEY_EXPAND do not look at the key's bytes, and its commit reaches the schedule file only (R170, R176). -/
theorem execKeyExpand_withKey {t : State} (h : execKeyExpand s = .next t) :
    ∃ t', execKeyExpand (s.withKey key sched) = .next t' ∧ SameButKey t t' := by
  have hchecks : keyExpandChecks (s.withKey key sched) = keyExpandChecks s := rfl
  unfold execKeyExpand at h ⊢
  rw [hchecks]
  split at h <;> cases h
  · exact ⟨_, rfl, raiseErr_withKey s key sched _ _⟩
  · exact ⟨_, rfl, rfl⟩

/-- A command that is no cipher command brings nothing of the key or the schedule elsewhere. -/
theorem exec_withKey {i : Instr} {t : State} (hi : i.isCipher = false) (h : exec i s = .next t) :
    ∃ t', exec i (s.withKey key sched) = .next t' ∧ SameButKey t t' := by
  cases i
  case keyExpand => exact execKeyExpand_withKey s key sched h
  case nop =>
    cases h
    exact ⟨_, rfl, rfl⟩
  case pad | unpad =>
    cases h
    exact ⟨_, rfl, runData_withKey s key sched _ _ _⟩
  case illegalAB | illegalCF | illegalRsv =>
    cases h
    exact ⟨_, rfl, raiseErr_withKey s key sched _ _⟩
  all_goals cases hi

/-- Whose turn it is does not depend on the key. -/
theorem nextTurn_withKey :
    nextTurn (s.withKey key sched) = ((nextTurn s).1, (nextTurn s).2.withKey key sched) := by
  have hs : (s.withKey key sched).script = s.script := rfl
  rcases nextTurn_cases s with ⟨h, e⟩ | ⟨m, es, h, e⟩ | ⟨es, h, e⟩ | ⟨es, h, hb, e⟩ | ⟨es, h, hb, e⟩ <;>
    rw [e, nextTurn, hs, h]
  case inr.inr.inr.inl => exact if_pos hb
  case inr.inr.inr.inr => exact if_neg (by simp [State.withKey, hb])
  all_goals rfl

end WithKey

/-! A step by whose turn it is. -/

theorem step_of_host {s u : State} {m : HostMove} (h : nextTurn s = (.host m, u)) : step s = hostMove m u := by
  rw [step, h]

theorem step_of_latched {s u : State} {l : Latch} (h : nextTurn s = (.engine, u)) (hp : u.pending = some l) :
    step s = exec (decode l.word) u := by
  rw [step, h]
  simp only [latchedWord, hp, Option.map_some]

theorem step_of_idle {s u : State} (h : nextTurn s = (.engine, u)) (hp : u.pending = none) : step s = .next u := by
  rw [step, h]
  simp only [latchedWord, hp, Option.map_none]

/-- Settles O60: both states have the same turn, and each kind of turn keeps the key and the schedule where they are. -/
theorem keyIsNotReadable : Obligations.KeyIsNotReadable := by
  intro s s' t hk hcipher h
  obtain ⟨key, sched, rfl⟩ := sameButKey_iff.mp hk
  have hturn := nextTurn_withKey s key sched
  obtain ⟨es, ⟨m, hn, hm⟩ | ⟨l, hn, hp, he⟩ | ⟨hn, hp, rfl⟩⟩ := step_cases h <;> rw [hn] at hturn
  · rw [step_of_host hturn]
    exact hostMove_withKey _ key sched hm
  · rw [step_of_latched hturn hp]
    exact exec_withKey _ key sched (hcipher (by rw [hn]) l hp) he
  · exact ⟨_, step_of_idle hturn hp, rfl⟩

end Sys2Proof.Machine
end

section
/-! Which move a step makes, and which accesses stop it (20_memory.md R81, R88, R89; 45_command_control.md R284). -/

namespace Sys2Proof.Machine

/-! The turn of each next event. -/

theorem nextTurn_of_host {s : State} {m : BusMove} {es : List Event} (h : s.script = .host m :: es) :
    nextTurn s = (busTurn s.cfg m, setScript es s) := by
  rw [nextTurn, h]

theorem nextTurn_of_engine {s : State} {es : List Event} (h : s.script = .engine :: es) :
    nextTurn s = (.engine, setScript es s) := by
  rw [nextTurn, h]

theorem nextTurn_of_nil {s : State} (h : s.script = []) : nextTurn s = (.engine, s) := by
  rw [nextTurn, h]

theorem nextTurn_of_wait_idle {s : State} {es : List Event} (h : s.script = .wait :: es) (hb : s.busy = false) :
    nextTurn s = (.host (.read 0x004), setScript es s) := by
  rw [nextTurn, h]
  exact if_neg (by simp [hb])

/-! The step of each bus move. -/

theorem step_of_busMove {s : State} {m : BusMove} {es : List Event} {a : HostMove} (h : s.script = .host m :: es)
    (hm : busTurn s.cfg m = .host a) : step s = hostMove a (setScript es s) :=
  step_of_host (hm ▸ nextTurn_of_host h)

theorem step_of_elsewhere {s : State} {m : BusMove} {es : List Event} (h : s.script = .host m :: es)
    (hm : busTurn s.cfg m = .elsewhere) : step s = .fault .addressBelowBase := by
  rw [step, nextTurn_of_host h, hm]

/-- Settles O6: each event decides the turn, and the turn decides the step. -/
theorem stepMakesHostMove : Obligations.StepMakesHostMove := by
  refine ⟨fun s off v es h => step_of_busMove h (busTurn_write ..), fun s off es h => step_of_busMove h (busTurn_read ..),
    fun s es h => step_of_busMove h rfl, fun s addr es hlt h => ?_,
    fun s es h hb => step_of_host (nextTurn_of_wait_idle h hb), fun s hp h => step_of_idle (nextTurn_of_nil h) hp,
    fun s es hp h => step_of_idle (nextTurn_of_engine h) hp⟩
  rcases h with h | ⟨v, h⟩
  · exact step_of_elsewhere h (busTurn_elsewhere.2.mpr ⟨addr, hlt, .inl rfl⟩)
  · exact step_of_elsewhere h (busTurn_elsewhere.2.mpr ⟨addr, hlt, .inr ⟨v, rfl⟩⟩)

/-- Settles O20: a read leaves the word on the bus and a new draw, and nothing else. -/
theorem readsHaveNoSideEffect : Obligations.ReadsHaveNoSideEffect :=
  fun s _ ha => ⟨_, hostMove_read s ha, rfl⟩

/-! The accesses that stop. -/

/-- A move on the bus that the interface does not have: an access below BASE or at a misaligned offset from BASE (R81, R89). -/
def BusMove.Foreign (p : Params) (m : BusMove) : Prop :=
  ∃ addr, (m = .read addr ∨ ∃ v, m = .write addr v) ∧ (addr < p.base ∨ ¬ AccessOk (addr - p.base))

theorem foreign_of_elsewhere {p : Params} {m : BusMove} (h : busTurn p m = .elsewhere) : m.Foreign p := by
  obtain ⟨addr, hlt, hm⟩ := busTurn_elsewhere.2.mp h
  exact ⟨addr, hm, .inl hlt⟩

theorem foreign_write_iff {p : Params} {off : Nat} {v : Word} :
    (BusMove.write (p.base + off) v).Foreign p ↔ ¬ AccessOk off := by
  simp [BusMove.Foreign]

theorem foreign_read_iff {p : Params} {off : Nat} : (BusMove.read (p.base + off)).Foreign p ↔ ¬ AccessOk off := by
  simp [BusMove.Foreign]

theorem not_foreign_reset {p : Params} : ¬ BusMove.reset.Foreign p := by
  simp [BusMove.Foreign]

theorem hostAccess_answers_iff {off : Nat} {t : State} : (∃ u, hostAccess off t = .next u) ↔ AccessOk off :=
  ⟨fun ⟨_, h⟩ => (hostAccess_eq_next h).1, fun h => ⟨t, hostAccess_ok t h⟩⟩

/-- At a host event a step answers exactly when the interface has the access. -/
theorem step_busMove_answers_iff {s : State} {m : BusMove} {es : List Event} (h : s.script = .host m :: es) :
    (∃ t, step s = .next t) ↔ ¬ m.Foreign s.cfg := by
  cases ht : busTurn s.cfg m with
  | engine => exact absurd ht busTurn_elsewhere.1
  | elsewhere =>
    rw [step_of_elsewhere h ht]
    exact iff_of_false (by simp) (not_not.mpr (foreign_of_elsewhere ht))
  | host a =>
    rw [step_of_busMove h ht]
    rcases busTurn_eq_host ht with ⟨off, v, rfl, rfl⟩ | ⟨off, rfl, rfl⟩ | ⟨rfl, rfl⟩
    · rw [foreign_write_iff, not_not]
      exact hostAccess_answers_iff
    · rw [foreign_read_iff, not_not]
      exact hostAccess_answers_iff
    · exact iff_of_true ⟨_, rfl⟩ not_foreign_reset

/-- No command stops the machine (R300). -/
theorem exec_answers (i : Instr) (s : State) : ∃ t, exec i s = .next t := by
  rcases exec_cases i s with ⟨_, _, _, e⟩ | ⟨_, _, e⟩ | ⟨_, _, _, e⟩ | ⟨_, _, e⟩ <;> exact ⟨_, e⟩

theorem step_engine_answers {s u : State} (h : nextTurn s = (.engine, u)) : ∃ t, step s = .next t := by
  cases hp : u.pending with
  | none => exact ⟨u, step_of_idle h hp⟩
  | some l =>
    rw [step_of_latched h hp]
    exact exec_answers _ u

/-- The next event is a foreign access. -/
def State.ForeignNext (s : State) : Prop := ∃ m es, s.script = .host m :: es ∧ m.Foreign s.cfg

theorem foreignNext_of_host {s : State} {m : BusMove} {es : List Event} (h : s.script = .host m :: es) :
    s.ForeignNext ↔ m.Foreign s.cfg := by
  simp [State.ForeignNext, h]

/-- A step answers exactly when the next event is no foreign access. -/
theorem step_answers_iff (s : State) : (∃ t, step s = .next t) ↔ ¬ s.ForeignNext := by
  rcases nextTurn_cases s with ⟨hs, hn⟩ | ⟨m, es, hs, _⟩ | ⟨es, hs, hn⟩ | ⟨es, hs, _, hn⟩ | ⟨es, hs, _, hn⟩
  case inr.inl =>
    rw [step_busMove_answers_iff hs, foreignNext_of_host hs]
  all_goals refine iff_of_true ?_ (by simp [State.ForeignNext, hs])
  · exact step_engine_answers hn
  · exact step_engine_answers hn
  · exact step_engine_answers hn
  · exact ⟨_, (step_of_host hn).trans (hostMove_read _ rfl)⟩

theorem foreignNext_iff {s : State} : s.ForeignNext ↔
    ∃ addr es, (s.script = .host (.read addr) :: es ∨ ∃ v, s.script = .host (.write addr v) :: es) ∧
      (addr < s.cfg.base ∨ ¬ AccessOk (addr - s.cfg.base)) := by
  constructor
  · rintro ⟨m, es, hs, addr, rfl | ⟨v, rfl⟩, hbad⟩
    · exact ⟨addr, es, .inl hs, hbad⟩
    · exact ⟨addr, es, .inr ⟨v, hs⟩, hbad⟩
  · rintro ⟨addr, es, hs | ⟨v, hs⟩, hbad⟩
    · exact ⟨_, es, hs, addr, .inl rfl, hbad⟩
    · exact ⟨_, es, hs, addr, .inr ⟨v, rfl⟩, hbad⟩

/-- Settles O7. -/
theorem onlyForeignAccessesStop : Obligations.OnlyForeignAccessesStop :=
  fun s => (step_answers_iff s).trans (not_congr foreignNext_iff)

end Sys2Proof.Machine
end

section
/-! The two fields of a command word, and the decoder and the encoder through them (30_encoding.md R110 to R117). -/

namespace Sys2Proof

/-! The fields of a word. -/

@[simp] theorem opField_toNat (w : Word) : (opField w).toNat = w.toNat % 16 := by
  rw [opField, BitVec.extractLsb'_toNat, Nat.shiftRight_zero]

@[simp] theorem rsvField_toNat (w : Word) : (rsvField w).toNat = w.toNat / 16 := by
  have hw := w.isLt
  simp only [rsvField, BitVec.extractLsb'_toNat, Nat.shiftRight_eq_div_pow]
  omega

theorem rsvField_eq_zero_iff {w : Word} : rsvField w = 0 ↔ w.toNat < 16 := by
  rw [← BitVec.toNat_inj, rsvField_toNat]
  exact Nat.div_eq_zero_iff_lt (by decide)

/-- A word with RSV = 0 is its OP field. -/
theorem opField_toNat_of_rsvField_eq_zero {w : Word} (h : rsvField w = 0) : (opField w).toNat = w.toNat := by
  rw [opField_toNat, Nat.mod_eq_of_lt (rsvField_eq_zero_iff.mp h)]

/-! The decoder checks RSV first (R116). -/

theorem decode_of_rsvField_ne_zero {w : Word} (h : rsvField w ≠ 0) : decode w = .illegalRsv (rsvField w) (opField w) :=
  if_pos h

theorem decode_of_rsvField_eq_zero {w : Word} (h : rsvField w = 0) : decode w = decodeOp (opField w) :=
  if_neg (not_not.mpr h)

/-! The sixteen OP fields of the words with RSV = 0 (R111, R113). -/

theorem decodeOp_wellFormed : ∀ op, (decodeOp op).wellFormed = true := by decide

theorem encode_decodeOp_toNat : ∀ op, (encode (decodeOp op)).toNat = op.toNat := by decide

theorem decodeOp_isCommand_iff : ∀ op, (decodeOp op).isCommand = true ↔ op.toNat < 10 := by decide

/-! The row with RSV not 0 (R112): its word is the two fields side by side. -/

theorem encode_illegalRsv_toNat (rsv : BitVec 28) (op : BitVec 4) :
    (encode (.illegalRsv rsv op)).toNat = 16 * rsv.toNat + op.toNat := by
  have hr := rsv.isLt
  have ho := op.isLt
  rw [encode, BitVec.toNat_ofNat]
  omega

theorem rsvField_encode_illegalRsv (rsv : BitVec 28) (op : BitVec 4) : rsvField (encode (.illegalRsv rsv op)) = rsv := by
  have ho := op.isLt
  apply BitVec.eq_of_toNat_eq
  rw [rsvField_toNat, encode_illegalRsv_toNat]
  omega

theorem opField_encode_illegalRsv (rsv : BitVec 28) (op : BitVec 4) : opField (encode (.illegalRsv rsv op)) = op := by
  have ho := op.isLt
  apply BitVec.eq_of_toNat_eq
  rw [opField_toNat, encode_illegalRsv_toNat]
  omega

theorem decode_encode_illegalRsv {rsv : BitVec 28} (h : rsv ≠ 0) (op : BitVec 4) :
    decode (encode (.illegalRsv rsv op)) = .illegalRsv rsv op := by
  have hne : rsvField (encode (.illegalRsv rsv op)) ≠ 0 := by rwa [rsvField_encode_illegalRsv]
  rw [decode_of_rsvField_ne_zero hne, rsvField_encode_illegalRsv, opField_encode_illegalRsv]

/-! The reserved opcodes (R113), with every value of their free bits. -/

theorem decode_encode_illegalAB : ∀ low, decode (encode (.illegalAB low)) = .illegalAB low := by decide

theorem decode_encode_illegalCF : ∀ low, decode (encode (.illegalCF low)) = .illegalCF low := by decide

/-! Every word. -/

theorem decode_wellFormed (w : Word) : (decode w).wellFormed = true := by
  by_cases h : rsvField w = 0
  · rw [decode_of_rsvField_eq_zero h]
    exact decodeOp_wellFormed _
  · rw [decode_of_rsvField_ne_zero h]
    exact decide_eq_true h

theorem encode_decode_toNat (w : Word) : (encode (decode w)).toNat = w.toNat := by
  by_cases h : rsvField w = 0
  · rw [decode_of_rsvField_eq_zero h, encode_decodeOp_toNat, opField_toNat_of_rsvField_eq_zero h]
  · rw [decode_of_rsvField_ne_zero h, encode_illegalRsv_toNat, rsvField_toNat, opField_toNat, Nat.div_add_mod]

theorem decode_isCommand_iff (w : Word) : (decode w).isCommand = true ↔ w.toNat < 10 := by
  by_cases h : rsvField w = 0
  · rw [decode_of_rsvField_eq_zero h, decodeOp_isCommand_iff, opField_toNat_of_rsvField_eq_zero h]
  · have hw : ¬ w.toNat < 16 := mt rsvField_eq_zero_iff.mpr h
    rw [decode_of_rsvField_ne_zero h]
    exact iff_of_false Bool.false_ne_true (by omega)

/-- Settles O1, by the rows of the opcode table: a command has one word, a reserved opcode two or four, and the row with RSV not 0
gives back its two fields. -/
theorem decodeOfEncodeIsIdentity : Obligations.DecodeOfEncodeIsIdentity := by
  intro i hi
  cases i
  case illegalRsv rsv op => exact decode_encode_illegalRsv (of_decide_eq_true hi) op
  case illegalAB low => exact decode_encode_illegalAB low
  case illegalCF low => exact decode_encode_illegalCF low
  all_goals rfl

/-- Settles O2. -/
theorem encodeOfDecodeIsIdentity : Obligations.EncodeOfDecodeIsIdentity :=
  fun w => ⟨decode_wellFormed w, BitVec.eq_of_toNat_eq (encode_decode_toNat w)⟩

/-- Settles O3: the bound for every word, then the ten words evaluated. -/
theorem exactlyTenWordsAreCommands : Obligations.ExactlyTenWordsAreCommands :=
  ⟨decode_isCommand_iff, by decide⟩

/-- Settles O4, by evaluating the decoder at the fifteen words. -/
theorem commandWordsDecode : Obligations.CommandWordsDecode := by
  unfold Obligations.CommandWordsDecode
  decide

/-- Settles O38, by evaluating the table. -/
theorem errorCodeTable : Obligations.ErrorCodeTable := by
  unfold Obligations.ErrorCodeTable
  decide

end Sys2Proof
end

section
/-! The rotates of the word ALU (40_word_alu.md R147, R148): the rotate left by its bits and by its value, and the rotate right as the
rotate left that undoes it. -/

namespace Sys2Proof.Machine

/-- Bit `i` of the result is the bit `n` places below, counted around the word. -/
theorem getLsbD_rotl32 (a : Word) (n : Nat) {i : Nat} (hi : i < 32) :
    (rotl32 a n).getLsbD i = a.getLsbD ((i + (32 - n % 32)) % 32) := by
  have hn : n % 32 < 32 := Nat.mod_lt _ (by decide)
  rw [rotl32, low5, BitVec.getLsbD_rotateLeft, Nat.mod_mod]
  by_cases h : i < n % 32
  · rw [decide_eq_true h, cond_true]
    congr 1
    omega
  · rw [decide_eq_false h, cond_false, decide_eq_true hi, Bool.true_and]
    congr 1
    omega

theorem rotl32_of_mod_eq_zero (a : Word) {n : Nat} (h : n % 32 = 0) : rotl32 a n = a := by
  refine BitVec.eq_of_getLsbD_eq fun i hi => ?_
  rw [getLsbD_rotl32 a n hi, h, Nat.sub_zero, Nat.add_mod_right, Nat.mod_eq_of_lt hi]

/-- The amounts of two rotates add up. -/
theorem rotl32_rotl32 (a : Word) (m n : Nat) : rotl32 (rotl32 a m) n = rotl32 a (m + n) := by
  refine BitVec.eq_of_getLsbD_eq fun i hi => ?_
  rw [getLsbD_rotl32 _ _ hi, getLsbD_rotl32 _ _ (Nat.mod_lt _ (by decide)), getLsbD_rotl32 _ _ hi]
  congr 1
  omega

theorem rotr32_of_mod_eq_zero (a : Word) {n : Nat} (h : n % 32 = 0) : rotr32 a n = a :=
  rotl32_of_mod_eq_zero a (by rw [low5, h])

@[simp] theorem rotr32_rotl32 (a : Word) (n : Nat) : rotr32 (rotl32 a n) n = a := by
  rw [rotr32, low5, rotl32_rotl32]
  exact rotl32_of_mod_eq_zero a (by omega)

/-- The bits that stay in the word and those that come around do not overlap, so their union is their sum. -/
theorem toNat_rotl32 (a : Word) (n : Nat) :
    (rotl32 a n).toNat = a.toNat * 2 ^ (n % 32) % 2 ^ 32 + a.toNat / 2 ^ (32 - n % 32) := by
  have hn : n % 32 ≤ 32 := (Nat.mod_lt _ (by decide)).le
  have hpow : 2 ^ 32 = 2 ^ (32 - n % 32) * 2 ^ (n % 32) := by rw [← Nat.pow_add, Nat.sub_add_cancel hn]
  have hround : a.toNat / 2 ^ (32 - n % 32) < 2 ^ (n % 32) :=
    Nat.div_lt_of_lt_mul (hpow ▸ a.isLt)
  have hstay : a.toNat * 2 ^ (n % 32) % 2 ^ 32 = (a.toNat % 2 ^ (32 - n % 32)) <<< (n % 32) := by
    rw [hpow, Nat.mul_mod_mul_right, Nat.shiftLeft_eq]
  rw [rotl32, low5, BitVec.toNat_rotateLeft, Nat.mod_mod, Nat.shiftLeft_eq, Nat.shiftRight_eq_div_pow, hstay,
    Nat.shiftLeft_add_eq_or_of_lt hround]

/-- Settles O42, by the value of the rotate; the amount 0 is the rotate that changes nothing. -/
theorem rotateLeftFormula : Obligations.RotateLeftFormula := by
  intro a n
  split
  case isTrue h => rw [rotl32_of_mod_eq_zero a h]
  case isFalse => exact toNat_rotl32 a n

/-- Settles O43: the amounts of the two rotates add up to a multiple of 32. -/
theorem rotateRightUndoesRotateLeft : Obligations.RotateRightUndoesRotateLeft :=
  fun a n => ⟨rfl, rotr32_of_mod_eq_zero a, rotr32_rotl32 a n⟩

end Sys2Proof.Machine
end

section
/-! The codec of byte sequences (40_word_alu.md R141, R142): its lengths, its words and bytes by index, and the round trip. -/

namespace Sys2Proof.Machine

/-! bytesToWords. -/

theorem length_bytesToWords (s : List Byte) : (bytesToWords s).length = (s.length + 3) / 4 := by
  fun_induction bytesToWords s
  case case5 b0 b1 b2 b3 rest ih =>
    simp only [List.length_cons, ih]
    omega
  all_goals simp

/-- A byte past the end counts 0, so the partial group at the end is a group like the others. -/
theorem bytesToWords_of_length_pos {s : List Byte} (h : 0 < s.length) :
    bytesToWords s = packWord (s.getD 0 0) (s.getD 1 0) (s.getD 2 0) (s.getD 3 0) :: bytesToWords (s.drop 4) := by
  fun_cases bytesToWords s
  case case1 => exact absurd h (Nat.lt_irrefl 0)
  all_goals rfl

theorem getD_bytesToWords {s : List Byte} {k : Nat} (hk : k < (s.length + 3) / 4) :
    (bytesToWords s).getD k 0 =
      packWord (s.getD (4 * k) 0) (s.getD (4 * k + 1) 0) (s.getD (4 * k + 2) 0) (s.getD (4 * k + 3) 0) := by
  induction k generalizing s with
  | zero =>
    rw [bytesToWords_of_length_pos (by omega)]
    rfl
  | succ k ih =>
    have hk' : k < ((s.drop 4).length + 3) / 4 := by
      rw [List.length_drop]
      omega
    rw [bytesToWords_of_length_pos (by omega), List.getD_cons_succ, ih hk']
    simp only [List.getD_eq_getElem?_getD, List.getElem?_drop]
    congr! 3 <;> omega

/-! wordsToBytes. -/

theorem length_wordsToBytes (ws : List Word) : (wordsToBytes ws).length = 4 * ws.length := by
  induction ws with
  | nil => rfl
  | cons w ws ih =>
    rw [wordsToBytes_cons, List.length_append, ih, length_bytes4, List.length_cons]
    omega

theorem getD_bytes4_append (w : Word) (rest : List Byte) {m : Nat} (hm : m < 4) :
    (bytes4 w ++ rest).getD m 0 = byteOf w m := by
  interval_cases m <;> rfl

theorem getD_wordsToBytes {ws : List Word} {k m : Nat} (hk : k < ws.length) (hm : m < 4) :
    (wordsToBytes ws).getD (4 * k + m) 0 = byteOf (ws.getD k 0) m := by
  induction ws generalizing k with
  | nil => exact absurd hk (Nat.not_lt_zero k)
  | cons w ws ih =>
    rw [wordsToBytes_cons]
    cases k with
    | zero => rw [Nat.mul_zero, Nat.zero_add, getD_bytes4_append w _ hm, List.getD_cons_zero]
    | succ k =>
      have hidx : 4 * (k + 1) + m - (bytes4 w).length = 4 * k + m := by
        rw [length_bytes4]
        omega
      rw [List.getD_append_right _ _ _ _ (by rw [length_bytes4]; omega), hidx, List.getD_cons_succ,
        ih (Nat.lt_of_succ_lt_succ hk)]

/-! The round trip. -/

theorem wordsToBytes_bytesToWords (s : List Byte) :
    wordsToBytes (bytesToWords s) = s ++ List.replicate (4 * ((s.length + 3) / 4) - s.length) 0 := by
  fun_induction bytesToWords s
  case case1 => rfl
  case case5 b0 b1 b2 b3 rest ih =>
    have hfill : 4 * ((rest.length + 1 + 1 + 1 + 1 + 3) / 4) - (rest.length + 1 + 1 + 1 + 1) =
        4 * ((rest.length + 3) / 4) - rest.length := by omega
    simp [ih, hfill]
  all_goals simp [List.replicate]

theorem wordsToBytes_bytesToWords_eq_self_iff (s : List Byte) :
    wordsToBytes (bytesToWords s) = s ↔ s.length % 4 = 0 := by
  rw [wordsToBytes_bytesToWords, List.append_right_eq_self, List.replicate_eq_nil_iff]
  omega

/-- Settles O44. -/
theorem bytesToWordsFormula : Obligations.BytesToWordsFormula :=
  fun s => ⟨length_bytesToWords s, fun k hk => by rw [getD_bytesToWords hk, toNat_packWord]⟩

/-- Settles O45: the zero bytes are those that the last word adds, and there are none where the length is a multiple of 4. -/
theorem wordsToBytesUndoesBytesToWords : Obligations.WordsToBytesUndoesBytesToWords :=
  ⟨fun ws => ⟨length_wordsToBytes ws, fun _ _ hk hm => getD_wordsToBytes hk hm⟩,
    fun s => ⟨wordsToBytes_bytesToWords s, wordsToBytes_bytesToWords_eq_self_iff s⟩⟩

end Sys2Proof.Machine
end

section
/-! The key schedule (41_key_schedule.md R170 to R178): the initial schedule word by word, the key words of short zero keys, and what
KEY_EXPAND leaves on each of its paths. -/

namespace Sys2Proof.Machine

/-! The initial schedule. -/

theorem getElem?_initialFrom {n i : Nat} (x : Word) (hi : i < n) :
    (initialFrom n x)[i]? = some (x + BitVec.ofNat 32 i * Config.magicQ) := by
  induction n generalizing x i with
  | zero => exact absurd hi (Nat.not_lt_zero i)
  | succ n ih =>
    rw [initialFrom]
    cases i with
    | zero => simp
    | succ i =>
      rw [List.getElem?_cons_succ, ih _ (Nat.lt_of_succ_lt_succ hi), add32, BitVec.ofNat_add, BitVec.add_mul,
        BitVec.one_mul, BitVec.add_assoc, BitVec.add_comm Config.magicQ]

/-- Settles O46. -/
theorem initialScheduleIsArithmetic : Obligations.InitialScheduleIsArithmetic :=
  fun _ => ⟨initialFrom_length _ _, fun _ hi => getElem?_initialFrom Config.magicP hi⟩

/-! The key words. -/

/-- The zeros that fill up the last word of a short key are all that a key of zero bytes has (R171, R175). -/
theorem keyWords_replicate_zero {b : Nat} (h1 : 1 ≤ b) (h4 : b ≤ 4) : keyWords (List.replicate b 0) = [0] := by
  interval_cases b <;> rfl

/-- The mixing sees the key through its words only (R171, R173). -/
theorem expand_congr {key key' : List Byte} (h : keyWords key = keyWords key') (r : Nat) : expand key r = expand key' r := by
  simp only [expand, mixed, h]

/-- Settles O47. -/
theorem shortZeroKeysShareOneSchedule : Obligations.ShortZeroKeysShareOneSchedule :=
  ⟨rfl, fun _ r h1 h4 => ⟨keyWords_replicate_zero h1 h4, expand_congr (keyWords_replicate_zero h1 h4) r⟩⟩

/-! The checks of KEY_EXPAND. -/

/-- The checks by the registers, in their order (R170, R303). -/
theorem firstError_keyExpandChecks (s : State) :
    firstError (keyExpandChecks s) =
      if s.rounds.toNat = 0 ∨ s.cfg.rMax < s.rounds.toNat then some .invalidRounds
      else if s.cfg.keyMaxBytes < s.keyLen.toNat then some .keyTooLong
      else if s.keyLen.toNat = 0 ∧ keychkOp s = true then some .emptyKey
      else none := by
  simp only [keyExpandChecks, firstError, badRounds_iff, keyTooLong_iff, emptyKey_iff]

/-! What KEY_EXPAND leaves. -/

theorem exec_keyExpand_of_no_error {s : State} (h : firstError (keyExpandChecks s) = none) :
    exec .keyExpand s = .next (complete (commitSchedule (expand (keyBytes s) (roundsOp s)) s)) := by
  rw [exec, execKeyExpand, h]

/-- KEY_EXPAND is no data command, so its failure is a completion with the code and no other effect (R177, R301). -/
theorem exec_keyExpand_of_error {s : State} {e : Err} (h : firstError (keyExpandChecks s) = some e) :
    exec .keyExpand s = .next (endCommand (errCodeOf e) s) := by
  rw [exec, execKeyExpand, h]
  rfl

/-- A completion changes nothing but STATUS, ERR_CODE and the latch (R276). -/
theorem endCommand_frame (code : BitVec 4) (s : State) :
    Ended code (endCommand code s) ∧ InputsKept s (endCommand code s) ∧ ScheduleKept s (endCommand code s) ∧
      OutputKept s (endCommand code s) := by
  simp [Ended, InputsKept, ScheduleKept, OutputKept]

theorem keyExpand_commits {s : State} (h : firstError (keyExpandChecks s) = none) :
    ∃ t, exec .keyExpand s = .next t ∧ t.sched = expand (keyBytes s) (roundsOp s) ∧
      t.sched.length = 2 * (s.rounds.toNat + 2) ∧ t.ksRounds = s.rounds ∧ t.keyValid = true ∧
      Ended 0 t ∧ InputsKept s t ∧ OutputKept s t :=
  ⟨_, exec_keyExpand_of_no_error h, rfl, expand_length _ _, rfl, rfl, by simp [Ended, InputsKept, OutputKept]⟩

theorem keyExpand_fails {s : State} {e : Err} (h : firstError (keyExpandChecks s) = some e) :
    ∃ t, exec .keyExpand s = .next t ∧ Ended (errCodeOf e) t ∧ InputsKept s t ∧ ScheduleKept s t ∧ OutputKept s t :=
  ⟨_, exec_keyExpand_of_error h, endCommand_frame _ s⟩

/-- Settles O30: the checks decide the path, and each path has its frame. -/
theorem keyExpandCommitsSchedule : Obligations.KeyExpandCommitsSchedule := by
  intro s
  have hchecks := firstError_keyExpandChecks s
  constructor
  · intro h1 hr hl he
    rw [if_neg (by omega), if_neg (by omega), if_neg (by simpa using he)] at hchecks
    exact keyExpand_commits hchecks
  · rintro _ (⟨hr, rfl⟩ | ⟨hr, hl, rfl⟩ | ⟨hr, hl, h0, hk, rfl⟩)
    · rw [if_pos hr] at hchecks
      exact keyExpand_fails hchecks
    · rw [if_neg (by omega), if_pos hl] at hchecks
      exact keyExpand_fails hchecks
    · rw [if_neg (by omega), if_neg (by omega), if_pos ⟨h0, hk⟩] at hchecks
      exact keyExpand_fails hchecks

/-! What KEY_EXPAND depends on. -/

theorem errCodeOf_ne_zero (e : Err) : errCodeOf e ≠ 0 := by cases e <;> decide

/-- A KEY_EXPAND that ends with code 0 has committed (R176, R177). -/
theorem schedule_of_keyExpand_succeeds {s t : State} (h : exec .keyExpand s = .next t) (h0 : t.errCode = 0) :
    t.sched = expand (keyBytes s) (roundsOp s) ∧ t.ksRounds = s.rounds := by
  cases hc : firstError (keyExpandChecks s) with
  | none =>
    rw [exec_keyExpand_of_no_error hc] at h
    cases h
    exact ⟨rfl, rfl⟩
  | some e =>
    rw [exec_keyExpand_of_error hc] at h
    cases h
    exact absurd h0 (errCodeOf_ne_zero e)

/-- Bytes that the host has written do not depend on the number of resets (R332). -/
theorem memRead_eq_of_written (buf : BufId) {m m' : Memory} (epoch epoch' a n : Nat)
    (h : ∀ k, k < n → ∃ b, Memory.read m (a + k) = some b ∧ Memory.read m' (a + k) = some b) :
    memRead buf m epoch a n = memRead buf m' epoch' a n := by
  refine List.map_congr_left fun k hk => ?_
  obtain ⟨b, hm, hm'⟩ := h k (List.mem_range.mp hk)
  rw [hm, hm', Option.getD_some, Option.getD_some]

theorem keyBytes_eq_of_written {s s' : State} (hlen : s'.keyLen = s.keyLen)
    (h : ∀ a, a < s.keyLen.toNat → ∃ b, Memory.read s.keybuf a = some b ∧ Memory.read s'.keybuf a = some b) :
    keyBytes s' = keyBytes s := by
  unfold keyBytes keyLenOp
  rw [hlen]
  exact (memRead_eq_of_written .keybuf s.epoch s'.epoch 0 _ fun k hk => by simpa using h k hk).symm

theorem keyBytes_withKeybuf {s : State} {kb : Memory}
    (h : ∀ a, a < s.keyLen.toNat → Memory.read kb a = Memory.read s.keybuf a) :
    keyBytes { s with keybuf := kb } = keyBytes s :=
  memRead_congr .keybuf s.epoch 0 _ fun k hk => by simpa using h k hk

/-- KEY_EXPAND does the same with another KEYBUF that has the same key bytes, and writes neither KEYBUF (R178). -/
theorem exec_keyExpand_withKeybuf {s : State} {kb : Memory}
    (h : ∀ a, a < s.keyLen.toNat → Memory.read kb a = Memory.read s.keybuf a) :
    ∃ t, exec .keyExpand s = .next t ∧ t.keybuf = s.keybuf ∧
      exec .keyExpand { s with keybuf := kb } = .next { t with keybuf := kb } := by
  have hchecks : keyExpandChecks { s with keybuf := kb } = keyExpandChecks s := rfl
  cases hc : firstError (keyExpandChecks s) with
  | none =>
    refine ⟨_, exec_keyExpand_of_no_error hc, rfl, ?_⟩
    rw [exec_keyExpand_of_no_error (hchecks ▸ hc), keyBytes_withKeybuf h]
    rfl
  | some e => exact ⟨_, exec_keyExpand_of_error hc, rfl, exec_keyExpand_of_error (hchecks ▸ hc)⟩

/-- Settles O32. -/
theorem keyBytesBeyondLengthDoNotMatter : Obligations.KeyBytesBeyondLengthDoNotMatter := by
  constructor
  · intro s s' t t' hr hlen hkey ht ht' h0 h0'
    obtain ⟨hsched, hks⟩ := schedule_of_keyExpand_succeeds ht h0
    obtain ⟨hsched', hks'⟩ := schedule_of_keyExpand_succeeds ht' h0'
    have hrounds : roundsOp s' = roundsOp s := congrArg BitVec.toNat hr
    rw [hsched, hsched', hks, hks', keyBytes_eq_of_written hlen hkey, hrounds]
    exact ⟨rfl, hr⟩
  · intro s kb hkey
    obtain ⟨t, ht, hkb, hu⟩ := exec_keyExpand_withKeybuf hkey
    exact ⟨t, _, ht, hu, rfl, rfl, rfl, rfl, hkb, rfl⟩

end Sys2Proof.Machine
end

section
/-! The block transform (42_block_transform.md R190 to R195): decryption undoes encryption stage by stage, and both read the words of
the held schedule only. -/

namespace Sys2Proof.Machine

@[simp] theorem rotl32_rotr32 (a : Word) (n : Nat) : rotl32 (rotr32 a n) n = a := by
  rw [rotr32, low5, rotl32_rotl32]
  exact rotl32_of_mod_eq_zero a (by omega)

/-! One word of a round: the xor, the rotate and the addition, and their inverses in reverse order (R194). -/

theorem unmix_mix (a k w : Word) (n : Nat) :
    xor32 (rotr32 (sub32 (add32 (rotl32 (xor32 a k) n) w) w) n) k = a := by
  simp only [BitVec.add_sub_cancel, rotr32_rotl32, BitVec.xor_assoc, BitVec.xor_self, BitVec.xor_zero]

theorem mix_unmix (a k w : Word) (n : Nat) :
    add32 (rotl32 (xor32 (xor32 (rotr32 (sub32 a w) n) k) k) n) w = a := by
  simp only [BitVec.xor_assoc, BitVec.xor_self, BitVec.xor_zero, rotl32_rotr32, BitVec.sub_add_cancel]

section Inverse

variable (S : Nat → Word)

/-! A round leaves B and D, from which its inverse computes the same temporaries (R191, R194). -/

@[simp] theorem decRound_encRound (i : Nat) (b : BlockRegs) : decRound S i (encRound S i b) = b := by
  simp only [decRound, encRound, unmix_mix]

@[simp] theorem encRound_decRound (i : Nat) (b : BlockRegs) : encRound S i (decRound S i b) = b := by
  simp only [decRound, encRound, mix_unmix]

/-- The last round of encryption is the first that decryption undoes. -/
@[simp] theorem decRounds_encRounds (r : Nat) (b : BlockRegs) : decRounds S r (encRounds S r b) = b := by
  induction r with
  | zero => rfl
  | succ r ih => rw [encRounds, decRounds, decRound_encRound, ih]

@[simp] theorem encRounds_decRounds (r : Nat) (b : BlockRegs) : encRounds S r (decRounds S r b) = b := by
  induction r generalizing b with
  | zero => rfl
  | succ r ih => rw [decRounds, encRounds, ih, encRound_decRound]

/-! The whitenings. -/

@[simp] theorem undoPreWhiten_preWhiten (b : BlockRegs) : undoPreWhiten S (preWhiten S b) = b := by
  simp only [undoPreWhiten, preWhiten, BitVec.add_sub_cancel]

@[simp] theorem preWhiten_undoPreWhiten (b : BlockRegs) : preWhiten S (undoPreWhiten S b) = b := by
  simp only [undoPreWhiten, preWhiten, BitVec.sub_add_cancel]

@[simp] theorem undoPostWhiten_postWhiten (r : Nat) (b : BlockRegs) : undoPostWhiten S r (postWhiten S r b) = b := by
  simp only [undoPostWhiten, postWhiten, BitVec.add_sub_cancel]

@[simp] theorem postWhiten_undoPostWhiten (r : Nat) (b : BlockRegs) : postWhiten S r (undoPostWhiten S r b) = b := by
  simp only [undoPostWhiten, postWhiten, BitVec.sub_add_cancel]

end Inverse

/-! Whole blocks. -/

theorem getD_of_length_four : ∀ {ws : List Word}, ws.length = 4 → [ws.getD 0 0, ws.getD 1 0, ws.getD 2 0, ws.getD 3 0] = ws
  | [_, _, _, _], _ => rfl

theorem joinBlock_splitBlock {x : List Byte} (h : x.length = 16) : joinBlock (splitBlock x) = x := by
  have hwords : (bytesToWords x).length = 4 := by rw [length_bytesToWords, h]
  rw [joinBlock, splitBlock, getD_of_length_four hwords, wordsToBytes_bytesToWords_eq_self_iff, h]

theorem decBlock_encBlock (S : Nat → Word) (r : Nat) {x : List Byte} (h : x.length = 16) :
    decBlock S r (encBlock S r x) = x := by
  rw [decBlock, encBlock, splitBlock_joinBlock, undoPostWhiten_postWhiten, decRounds_encRounds, undoPreWhiten_preWhiten,
    joinBlock_splitBlock h]

theorem encBlock_decBlock (S : Nat → Word) (r : Nat) {y : List Byte} (h : y.length = 16) :
    encBlock S r (decBlock S r y) = y := by
  rw [encBlock, decBlock, splitBlock_joinBlock, preWhiten_undoPreWhiten, encRounds_decRounds, postWhiten_undoPostWhiten,
    joinBlock_splitBlock h]

/-- Settles O48. -/
theorem decryptInvertsEncrypt : Obligations.DecryptInvertsEncrypt :=
  fun S r => ⟨fun x h => ⟨encBlock_length S r x, decBlock_encBlock S r h⟩,
    fun y h => ⟨decBlock_length S r y, encBlock_decBlock S r h⟩⟩

/-! The schedule words that each stage reads (R192). -/

section HeldSchedule

variable {S S' : Nat → Word}

theorem encRound_congr {i : Nat} (h0 : S (2 * i) = S' (2 * i)) (h1 : S (2 * i + 1) = S' (2 * i + 1)) (b : BlockRegs) :
    encRound S i b = encRound S' i b := by
  simp only [encRound, h0, h1]

theorem decRound_congr {i : Nat} (h0 : S (2 * i) = S' (2 * i)) (h1 : S (2 * i + 1) = S' (2 * i + 1)) (b : BlockRegs) :
    decRound S i b = decRound S' i b := by
  simp only [decRound, h0, h1]

/-- The rounds read no word above those of the last round. -/
theorem encRounds_congr {r : Nat} (h : ∀ i, i < 2 * (r + 1) → S i = S' i) (b : BlockRegs) :
    encRounds S r b = encRounds S' r b := by
  induction r with
  | zero => rfl
  | succ r ih =>
    rw [encRounds, encRounds, ih fun i hi => h i (by omega), encRound_congr (h _ (by omega)) (h _ (by omega))]

theorem decRounds_congr {r : Nat} (h : ∀ i, i < 2 * (r + 1) → S i = S' i) (b : BlockRegs) :
    decRounds S r b = decRounds S' r b := by
  induction r generalizing b with
  | zero => rfl
  | succ r ih =>
    rw [decRounds, decRounds, decRound_congr (h _ (by omega)) (h _ (by omega)), ih fun i hi => h i (by omega)]

theorem encBlock_congr {r : Nat} (h : ∀ i, i < 2 * (r + 2) → S i = S' i) (x : List Byte) :
    encBlock S r x = encBlock S' r x := by
  have hrounds := encRounds_congr (r := r) fun i hi => h i (by omega)
  simp only [encBlock, preWhiten, postWhiten, hrounds, h 0 (by omega), h 1 (by omega), h (2 * r + 2) (by omega),
    h (2 * r + 3) (by omega)]

theorem decBlock_congr {r : Nat} (h : ∀ i, i < 2 * (r + 2) → S i = S' i) (y : List Byte) :
    decBlock S r y = decBlock S' r y := by
  have hrounds := decRounds_congr (r := r) fun i hi => h i (by omega)
  simp only [decBlock, undoPreWhiten, undoPostWhiten, hrounds, h 0 (by omega), h 1 (by omega), h (2 * r + 2) (by omega),
    h (2 * r + 3) (by omega)]

end HeldSchedule

/-- Settles O49. -/
theorem transformReadsHeldScheduleOnly : Obligations.TransformReadsHeldScheduleOnly :=
  fun _ _ _ x h => ⟨encBlock_congr h x, decBlock_congr h x⟩

end Sys2Proof.Machine
end

section
/-! What a data command leaves on each of its two paths (45_command_control.md R276; 60_exceptions.md R301), and the block commands
(42_block_transform.md R196, R197). -/

namespace Sys2Proof.Machine

/-! Every data command. -/

/-- A data command whose checks find an error ends with its code and loses the output (R47, R301). -/
theorem failsWith_of_firstError {i : Instr} {cs : List (Bool × Err)} {out : List Byte} {e : Err} {s : State}
    (hi : i.isData = true) (hx : exec i s = .next (runData i cs out s)) (h : firstError cs = some e) : FailsWith i e s := by
  obtain ⟨hend, hin, hsched, _⟩ := endCommand_frame (errCodeOf e) (forgetOutput s)
  refine ⟨_, hx, ?_⟩
  rw [runData, h]
  simp only [raiseErr, if_pos hi]
  exact ⟨hend, ⟨rfl, fun _ => rfl⟩, hin, hsched⟩

/-- A data command whose checks pass ends with its output in OUTBUF and its length in OUT_LEN, which has 16 bits (R42, R47). -/
theorem succeedsWith_of_firstError {i : Instr} {cs : List (Bool × Err)} {out : List Byte} {s : State}
    (hx : exec i s = .next (runData i cs out s)) (h : firstError cs = none) (hl : out.length < 2 ^ 16) :
    SucceedsWith i out s := by
  obtain ⟨hend, hin, hsched, _⟩ := endCommand_frame 0 (writeOutput out s)
  refine ⟨_, hx, ?_⟩
  rw [runData, h]
  exact ⟨hend, ⟨(BitVec.toNat_ofNat ..).trans (Nat.mod_eq_of_lt hl), Memory.read_writeBytes_nil out⟩, hin, hsched⟩

/-- The two checks that every cipher command makes first (R286, R303). -/
theorem firstError_precheckCipher_append (s : State) (cs : List (Bool × Err)) :
    firstError (precheckCipher s ++ cs) =
      if s.keyValid = false then some .noKey
      else if s.cfg.nBuf < s.inLen.toNat then some .lengthRange
      else firstError cs := by
  simp only [precheckCipher, List.cons_append, List.nil_append, firstError, noKey_iff, lengthRange_iff]

/-! The block commands. -/

/-- The checks of ENC_BLOCK and of DEC_BLOCK (R196, R197). -/
def blockChecks (s : State) : List (Bool × Err) := precheckCipher s ++ [(badBlockSize s, .invalidBlockSize)]

theorem exec_encBlock (s : State) :
    exec .encBlock s = .next (runData .encBlock (blockChecks s) (encBlock (schedWord s) (ksRoundsOp s) (inputBytes s)) s) := rfl

theorem exec_decBlock (s : State) :
    exec .decBlock s = .next (runData .decBlock (blockChecks s) (decBlock (schedWord s) (ksRoundsOp s) (inputBytes s)) s) := rfl

/-- The checks by the registers, in their order (R196, R303). -/
theorem firstError_blockChecks (s : State) :
    firstError (blockChecks s) =
      if s.keyValid = false then some .noKey
      else if s.cfg.nBuf < s.inLen.toNat then some .lengthRange
      else if s.inLen.toNat ≠ 16 then some .invalidBlockSize
      else none := by
  simp only [blockChecks, firstError_precheckCipher_append, firstError, badBlockSize_iff]

theorem blockCommands_fail {s : State} {e : Err} (h : firstError (blockChecks s) = some e) :
    FailsWith .encBlock e s ∧ FailsWith .decBlock e s :=
  ⟨failsWith_of_firstError rfl (exec_encBlock s) h, failsWith_of_firstError rfl (exec_decBlock s) h⟩

/-- Settles O35: the checks decide the path; a legal configuration has room for one block. -/
theorem blockCommandsSucceed : Obligations.BlockCommandsSucceed := by
  rintro s ⟨_, _, ⟨hroom, _⟩⟩
  have hchecks := firstError_blockChecks s
  refine ⟨fun hk => blockCommands_fail ?_, fun hk hn => blockCommands_fail ?_, fun hk hn h16 => blockCommands_fail ?_,
    fun hk h16 => ?_⟩
  · rw [hchecks, if_pos hk]
  · rw [hchecks, if_neg (by simp [hk]), if_pos hn]
  · rw [hchecks, if_neg (by simp [hk]), if_neg (by omega), if_pos h16]
  · rw [if_neg (by simp [hk]), if_neg (by omega), if_neg (by omega)] at hchecks
    exact ⟨succeedsWith_of_firstError (exec_encBlock s) hchecks (by rw [encBlock_length]; decide),
      succeedsWith_of_firstError (exec_decBlock s) hchecks (by rw [decBlock_length]; decide),
      encBlock_length .., decBlock_length ..⟩

end Sys2Proof.Machine
end

section
/-! The padding inserter and remover, and the commands PAD and UNPAD (43_padding.md R220 to R226). -/

namespace Sys2Proof.Machine

/-! What the inserter adds. -/

/-- How many bytes `pad` adds, which is also the value of each (R220). -/
def padCount (s : List Byte) : Nat := 16 - s.length % 16

theorem pad_eq_append (s : List Byte) : pad s = s ++ List.replicate (padCount s) (BitVec.ofNat 8 (padCount s)) := rfl

theorem padCount_bounds (s : List Byte) : 1 ≤ padCount s ∧ padCount s ≤ 16 := by
  unfold padCount
  omega

theorem toNat_ofNat_padCount (s : List Byte) : (BitVec.ofNat 8 (padCount s)).toNat = padCount s := by
  have hle := (padCount_bounds s).2
  rw [BitVec.toNat_ofNat, Nat.mod_eq_of_lt (by omega)]

theorem length_pad (s : List Byte) : (pad s).length = s.length + padCount s := by
  rw [pad_eq_append, List.length_append, List.length_replicate]

/-- A padded input that fits INBUF fits OUTBUF: N_BUF is a multiple of 16 (R7, R223). -/
theorem length_pad_le_nOut {p : Params} (hp : p.Legal) {s : List Byte} (h : s.length ≤ p.nBuf) : (pad s).length ≤ p.nOut := by
  obtain ⟨_, _, hblk, _⟩ := hp
  rw [length_pad]
  unfold padCount Params.nOut
  omega

/-- OUT_LEN, with its 16 bits, is wide enough for every length up to N_OUT (R7, R42). -/
theorem nOut_lt_of_legal {p : Params} (hp : p.Legal) : p.nOut < 2 ^ 16 := by
  obtain ⟨_, _, _, _, hmax⟩ := hp
  unfold Params.nOut
  omega

theorem toNat_of_mem_drop_pad {s : List Byte} {b : Byte} (h : b ∈ (pad s).drop s.length) : b.toNat = padCount s := by
  rw [pad_eq_append, List.drop_left] at h
  rw [List.eq_of_mem_replicate h, toNat_ofNat_padCount]

/-- At least one byte is added, so the last byte is one of them. -/
theorem getLast?_pad (s : List Byte) : (pad s).getLast? = some (BitVec.ofNat 8 (padCount s)) := by
  have hpos := (padCount_bounds s).1
  rw [pad_eq_append, List.getLast?_append, List.getLast?_replicate, if_neg (by omega), Option.some_or]

/-- Settles O50: the length is the input's with the added count, and that fills up the last block. -/
theorem padLength : Obligations.PadLength := by
  intro s
  have hlen := length_pad s
  have hcount : padCount s = 16 - s.length % 16 := rfl
  exact ⟨hlen, by omega, by omega, by omega, fun b => toNat_of_mem_drop_pad, fun p hp => length_pad_le_nOut hp⟩

/-! What the remover drops. -/

theorem unpad_of_getLast? {s : List Byte} {v : Byte} (h : s.getLast? = some v) :
    unpad s = if 1 ≤ v.toNat ∧ v.toNat ≤ 16 then s.take (s.length - v.toNat) else s := by
  simp only [unpad, List.getLastD_eq_getLast?, h, Option.getD_some]

/-- The last byte of a padded sequence is the count of the added bytes, so the remover drops those (R226). -/
theorem unpad_pad (s : List Byte) : unpad (pad s) = s := by
  rw [unpad_of_getLast? (getLast?_pad s), toNat_ofNat_padCount, if_pos (padCount_bounds s), length_pad, Nat.add_sub_cancel,
    pad_eq_append, List.take_left]

/-- Settles O51: the count is `padCount`; against the converse, 15 bytes 0 and a byte 2, where the remover drops a byte 0 that
the inserter does not put back (R222). -/
theorem unpadUndoesPad : Obligations.UnpadUndoesPad := by
  refine ⟨fun s => ⟨unpad_pad s, padCount s, ?_⟩, List.replicate 15 0 ++ [2], rfl, by decide⟩
  obtain ⟨hpos, hle⟩ := padCount_bounds s
  exact ⟨hpos, hle, getLast?_pad s, by rw [unpad_pad, length_pad]⟩

/-- Settles O52: the last byte decides the case; a count of at least 1 takes the last byte itself. -/
theorem unpadLooksAtLastByteOnly : Obligations.UnpadLooksAtLastByteOnly := by
  refine fun s v _ => ⟨fun hv => ?_, fun hv => ?_⟩
  · rw [unpad_concat, if_pos hv, List.take_append_of_le_length (by omega)]
  · rw [unpad_concat, if_neg (by omega)]

/-! The commands. -/

/-- The check that PAD and UNPAD make first (R286, R303). -/
theorem firstError_precheckNoKey_append (s : State) (cs : List (Bool × Err)) :
    firstError (precheckNoKey s ++ cs) = if s.cfg.nBuf < s.inLen.toNat then some .lengthRange else firstError cs := by
  simp only [precheckNoKey, List.cons_append, List.nil_append, firstError, lengthRange_iff]

/-- The checks of UNPAD (R225). -/
def unpadChecks (s : State) : List (Bool × Err) := precheckNoKey s ++ [(badInputLength s, .invalidInputLength)]

theorem exec_pad (s : State) : exec .pad s = .next (runData .pad (precheckNoKey s) (pad (inputBytes s)) s) := rfl

theorem exec_unpad (s : State) : exec .unpad s = .next (runData .unpad (unpadChecks s) (unpad (inputBytes s)) s) := rfl

/-- The one check of PAD (R224). -/
theorem firstError_precheckNoKey (s : State) :
    firstError (precheckNoKey s) = if s.cfg.nBuf < s.inLen.toNat then some .lengthRange else none :=
  firstError_precheckNoKey_append s []

/-- The checks of UNPAD by the registers, in their order (R225, R303). -/
theorem firstError_unpadChecks (s : State) :
    firstError (unpadChecks s) =
      if s.cfg.nBuf < s.inLen.toNat then some .lengthRange
      else if s.inLen.toNat = 0 ∨ s.inLen.toNat % 16 ≠ 0 then some .invalidInputLength
      else none := by
  simp only [unpadChecks, firstError_precheckNoKey_append, firstError, badInputLength_iff]

/-- Settles O36: the checks decide the path, and no check reads KEY_VALID; each output is at most N_OUT bytes long. -/
theorem paddingCommandsSucceed : Obligations.PaddingCommandsSucceed := by
  intro s hp
  have hpad := firstError_precheckNoKey s
  have hunpad := firstError_unpadChecks s
  refine ⟨fun hn => ?_, fun hn => ?_⟩
  · rw [if_pos hn] at hpad hunpad
    exact ⟨failsWith_of_firstError rfl (exec_pad s) hpad, failsWith_of_firstError rfl (exec_unpad s) hunpad⟩
  · rw [if_neg (by omega)] at hpad hunpad
    have hin : (inputBytes s).length ≤ s.cfg.nBuf := (length_inputBytes s).trans_le hn
    have hout := nOut_lt_of_legal hp
    have hlen := length_pad_le_nOut hp hin
    refine ⟨succeedsWith_of_firstError (exec_pad s) hpad (by omega), fun hbad => ?_, fun h0 h16 => ?_⟩
    · rw [if_pos hbad] at hunpad
      exact failsWith_of_firstError rfl (exec_unpad s) hunpad
    · rw [if_neg (by omega)] at hunpad
      have hle := (unpad_length (inputBytes s)).1
      have hroom : s.cfg.nBuf ≤ s.cfg.nOut := Nat.le_add_right ..
      exact succeedsWith_of_firstError (exec_unpad s) hunpad (by omega)

end Sys2Proof.Machine
end

section
/-! The modes ECB and CBC as functions (44_modes.md R240 to R250): the blocks of a sequence by index, the round trips, and the
ciphertext block by block. -/

namespace Sys2Proof.Machine

/-! Blocks by index. -/

theorem length_blk {s : List Byte} {k : Nat} (h : 16 * (k + 1) ≤ s.length) : (blk s k).length = 16 := by
  rw [blk, List.length_take, List.length_drop]
  omega

theorem blk_append_zero {b : List Byte} (h : b.length = 16) (s : List Byte) : blk (b ++ s) 0 = b := List.take_left' h

theorem blk_append_succ {b : List Byte} (h : b.length = 16) (s : List Byte) (k : Nat) : blk (b ++ s) (k + 1) = blk s k := by
  rw [blk, blk, Nat.mul_succ, Nat.add_comm, ← List.drop_drop, List.drop_left' h]

theorem getElem?_blocks {s : List Byte} {k : Nat} (h : k < s.length / 16) : (blocks s)[k]? = some (blk s k) := by
  rw [blocks, List.getElem?_map, List.getElem?_range h, Option.map_some]

/-- Only whole blocks count, whatever the length of the sequence. -/
theorem length_of_mem_blocks {s b : List Byte} (h : b ∈ blocks s) : b.length = 16 := by
  obtain ⟨k, hk, rfl⟩ := List.mem_map.mp h
  have hlt := List.mem_range.mp hk
  exact length_blk (by omega)

/-- The padding fills up the last block (R223). -/
theorem length_pad_whole (s : List Byte) : 16 * ((pad s).length / 16) = (pad s).length := by
  rw [length_pad]
  unfold padCount
  omega

theorem blocks_pad_join (s : List Byte) : (blocks (pad s)).flatMap id = pad s :=
  (blocks_whole _ (length_pad_whole s).symm).1

/-! The round trips. -/

theorem ecbDec_ecbEnc (S : Nat → Word) (r : Nat) (p : List Byte) : ecbDec S r (ecbEnc S r p) = p := by
  have hinv : ∀ b ∈ blocks (pad p), decBlock S r (encBlock S r b) = id b :=
    fun b hb => decBlock_encBlock S r (length_of_mem_blocks hb)
  rw [ecbDec, ecbEnc, blocks_flatMap (encBlock_length S r), List.flatMap_map, List.flatMap_congr hinv, blocks_pad_join, unpad_pad]

/-- Both directions chain on the same ciphertext blocks (R244), so each xor is undone by the same value. -/
theorem cbcDecBlocks_cbcEncBlocks (S : Nat → Word) (r : Nat) {bs : List (List Byte)} (hbs : ∀ b ∈ bs, b.length = 16)
    {chain : List Byte} (hc : chain.length = 16) :
    cbcDecBlocks S r chain (blocks (cbcEncBlocks S r chain bs)) = bs.flatMap id := by
  induction bs generalizing chain with
  | nil => rw [cbcEncBlocks, blocks_of_short (by simp), cbcDecBlocks, List.flatMap_nil]
  | cons b bs ih =>
    obtain ⟨hb, hrest⟩ := List.forall_mem_cons.mp hbs
    rw [cbcEncBlocks, blocks_append (encBlock_length S r _), cbcDecBlocks, decBlock_encBlock S r (xor16_length hb hc),
      xor16_xor16 (hb.trans hc.symm), ih hrest (encBlock_length S r _)]
    rfl

theorem cbcDec_cbcEnc (S : Nat → Word) (r : Nat) (p : List Byte) {iv : List Byte} (hiv : iv.length = 16) :
    cbcDec S r (cbcEnc S r p iv) iv = p := by
  rw [cbcDec, cbcEnc, cbcDecBlocks_cbcEncBlocks S r (fun _ => length_of_mem_blocks) hiv, blocks_pad_join, unpad_pad]

/-- Settles O53. -/
theorem modesRoundTrip : Obligations.ModesRoundTrip :=
  fun S r p _ hiv => ⟨ecbDec_ecbEnc S r p, cbcDec_cbcEnc S r p hiv⟩

/-! The ciphertext block by block. -/

theorem length_ecbEnc (S : Nat → Word) (r : Nat) (s : List Byte) : (ecbEnc S r s).length = (pad s).length :=
  (ecbEnc_length S r s).trans (length_pad_whole s)

theorem length_cbcEnc (S : Nat → Word) (r : Nat) (s iv : List Byte) : (cbcEnc S r s iv).length = (pad s).length :=
  (cbcEnc_length S r s iv).trans (length_pad_whole s)

/-- The block transform is a bijection on blocks (R195). -/
theorem encBlock_inj {S : Nat → Word} {r : Nat} {x y : List Byte} (hx : x.length = 16) (hy : y.length = 16) :
    encBlock S r x = encBlock S r y ↔ x = y := by
  refine ⟨fun h => ?_, congrArg _⟩
  rw [← decBlock_encBlock S r hx, h, decBlock_encBlock S r hy]

theorem blk_ecbEnc (S : Nat → Word) (r : Nat) {s : List Byte} {k : Nat} (hk : k < (pad s).length / 16) :
    blk (ecbEnc S r s) k = encBlock S r (blk (pad s) k) := by
  have hblocks : blocks (ecbEnc S r s) = (blocks (pad s)).map (encBlock S r) := blocks_flatMap (encBlock_length S r) _
  have hget : some (blk (ecbEnc S r s) k) = some (encBlock S r (blk (pad s) k)) := by
    rw [← getElem?_blocks (by rwa [length_ecbEnc]), hblocks, List.getElem?_map, getElem?_blocks hk, Option.map_some]
  exact Option.some.inj hget

/-- The chaining value of block `k` is block `k` of the sequence that the first chaining value and the ciphertext make. -/
theorem blk_cbcEncBlocks (S : Nat → Word) (r : Nat) {bs : List (List Byte)} {chain p : List Byte} {k : Nat}
    (hc : chain.length = 16) (hp : bs[k]? = some p) :
    blk (cbcEncBlocks S r chain bs) k = encBlock S r (xor16 p (blk (chain ++ cbcEncBlocks S r chain bs) k)) := by
  induction bs generalizing chain k with
  | nil => cases hp
  | cons b bs ih =>
    cases k with
    | zero =>
      obtain rfl : b = p := Option.some.inj hp
      rw [blk_append_zero hc, cbcEncBlocks, blk_append_zero (encBlock_length S r _)]
    | succ k =>
      rw [blk_append_succ hc, cbcEncBlocks, blk_append_succ (encBlock_length S r _)]
      exact ih (encBlock_length S r _) hp

theorem blk_cbcEnc (S : Nat → Word) (r : Nat) {s iv : List Byte} {k : Nat} (hiv : iv.length = 16)
    (hk : k < (pad s).length / 16) :
    blk (cbcEnc S r s iv) k = encBlock S r (xor16 (blk (pad s) k) (blk (iv ++ cbcEnc S r s iv) k)) :=
  blk_cbcEncBlocks S r hiv (getElem?_blocks hk)

/-- What block `k` is xored with: the IV for the first block, the ciphertext block before it for the others (R242). -/
theorem blk_iv_append {iv : List Byte} (hiv : iv.length = 16) (c : List Byte) (k : Nat) :
    blk (iv ++ c) k = if k = 0 then iv else blk c (k - 1) := by
  cases k with
  | zero => exact blk_append_zero hiv c
  | succ k => exact blk_append_succ hiv c k

theorem length_xored_block (S : Nat → Word) (r : Nat) {s iv : List Byte} {k : Nat} (hiv : iv.length = 16)
    (hk : k < (pad s).length / 16) : (xor16 (blk (pad s) k) (blk (iv ++ cbcEnc S r s iv) k)).length = 16 := by
  refine xor16_length (length_blk (by omega)) (length_blk ?_)
  rw [List.length_append, length_cbcEnc]
  omega

/-- Settles O54: a ciphertext block is the encryption of one 16-byte block, and encryption is injective on those. -/
theorem ciphertextBlocks : Obligations.CiphertextBlocks := by
  intro S r s iv k m hiv hk hm before
  have hwhole := length_pad_whole s
  have hk' : k < (pad s).length / 16 := by omega
  have hm' : m < (pad s).length / 16 := by omega
  have hbefore : ∀ j, blk (iv ++ cbcEnc S r s iv) j = before j := blk_iv_append hiv _
  have hxk := length_xored_block S r hiv hk'
  have hxm := length_xored_block S r hiv hm'
  have hck := blk_cbcEnc S r hiv hk'
  have hcm := blk_cbcEnc S r hiv hm'
  rw [hbefore] at hxk hxm hck hcm
  refine ⟨blk_ecbEnc S r hk', fun h => ?_, hck, ?_⟩
  · rw [blk_ecbEnc S r hk', blk_ecbEnc S r hm', h]
  · rw [hck, hcm, encBlock_inj hxk hxm]

/-! The decryption after the first block. -/

/-- The remover reaches no further back than the last block (R221). -/
theorem unpad_append (x : List Byte) {y : List Byte} (h : 16 ≤ y.length) : unpad (x ++ y) = x ++ unpad y := by
  have hne : y ≠ [] := List.ne_nil_of_length_pos (by omega)
  have hv := List.getLast?_eq_some_getLast hne
  have hlast : (x ++ y).getLast? = some (y.getLast hne) := by rw [List.getLast?_append, hv, Option.some_or]
  rw [unpad_of_getLast? hv, unpad_of_getLast? hlast]
  split
  · rw [List.length_append, Nat.add_sub_assoc (by omega), List.take_length_add_append]
  · rfl

/-- From byte 16 on a decryption is that of the ciphertext after its first block, with that block as the IV (R243, R244). -/
theorem drop_cbcDec (S : Nat → Word) (r : Nat) {c iv : List Byte} (hiv : iv.length = 16) (hc : 32 ≤ c.length) :
    (cbcDec S r c iv).drop 16 = cbcDec S r (c.drop 16) (c.take 16) := by
  have hfirst : (c.take 16).length = 16 := List.length_take_of_le (by omega)
  have hrest : 16 ≤ (cbcDecBlocks S r (c.take 16) (blocks (c.drop 16))).length := by
    rw [cbcDecBlocks_length S r _ hfirst fun _ => length_of_mem_blocks, blocks_length, List.length_drop]
    omega
  rw [cbcDec, cbcDec, blocks_of_long (by omega), cbcDecBlocks, unpad_append _ hrest,
    List.drop_left' (xor16_length (decBlock_length S r _) hiv)]

/-- Settles O55: neither the rest of the ciphertext nor its first block depends on the IV. -/
theorem wrongIvCorruptsFirstBlockOnly : Obligations.WrongIvCorruptsFirstBlockOnly := by
  intro S r c iv iv' hiv hiv' hc h16
  rw [drop_cbcDec S r hiv (by omega), drop_cbcDec S r hiv' (by omega)]

end Sys2Proof.Machine
end

section
/-! The mode commands ENC_ECB, DEC_ECB, ENC_CBC and DEC_CBC (44_modes.md R245 to R252): each makes the two checks of a cipher command
first, then its own. -/

namespace Sys2Proof.Machine

/-! The commands and their own checks. -/

theorem exec_encEcb (s : State) :
    exec .encEcb s = .next (runData .encEcb (precheckCipher s ++ [])
      (ecbEnc (schedWord s) (ksRoundsOp s) (inputBytes s)) s) := rfl

theorem exec_decEcb (s : State) :
    exec .decEcb s = .next (runData .decEcb (precheckCipher s ++ [(badInputLength s, .invalidInputLength)])
      (ecbDec (schedWord s) (ksRoundsOp s) (inputBytes s)) s) := rfl

theorem exec_encCbc (s : State) :
    exec .encCbc s = .next (runData .encCbc (precheckCipher s ++ [(badIvLength s, .invalidIvLength)])
      (cbcEnc (schedWord s) (ksRoundsOp s) (inputBytes s) (ivBytes s)) s) := rfl

theorem exec_decCbc (s : State) :
    exec .decCbc s = .next (runData .decCbc
      (precheckCipher s ++ [(badIvLength s, .invalidIvLength), (badInputLength s, .invalidInputLength)])
      (cbcDec (schedWord s) (ksRoundsOp s) (inputBytes s) (ivBytes s)) s) := rfl

/-- The check of DEC_ECB by IN_LEN (R246). -/
theorem firstError_badInputLength (s : State) :
    firstError [(badInputLength s, .invalidInputLength)] =
      if s.inLen.toNat = 0 ∨ s.inLen.toNat % 16 ≠ 0 then some .invalidInputLength else none := by
  simp only [firstError, badInputLength_iff]

/-- The check that the CBC commands make first of their own (R247, R248). -/
theorem firstError_badIvLength_cons (s : State) (cs : List (Bool × Err)) :
    firstError ((badIvLength s, .invalidIvLength) :: cs) =
      if s.ivLen.toNat ≠ 16 then some .invalidIvLength else firstError cs := by
  simp only [firstError, badIvLength_iff]

section CipherCommand

variable {i : Instr} {cs : List (Bool × Err)} {out : List Byte} {s : State}

theorem cipher_failsWith_noKey (hi : i.isData = true) (hx : exec i s = .next (runData i (precheckCipher s ++ cs) out s))
    (hk : s.keyValid = false) : FailsWith i .noKey s :=
  failsWith_of_firstError hi hx (by rw [firstError_precheckCipher_append, if_pos hk])

theorem cipher_failsWith_lengthRange (hi : i.isData = true)
    (hx : exec i s = .next (runData i (precheckCipher s ++ cs) out s)) (hk : s.keyValid = true)
    (hn : s.cfg.nBuf < s.inLen.toNat) : FailsWith i .lengthRange s :=
  failsWith_of_firstError hi hx (by rw [firstError_precheckCipher_append, if_neg (by simp [hk]), if_pos hn])

/-- Where the two checks of a cipher command pass, its own checks decide (R303). -/
theorem firstError_of_precheckCipher_passes (hk : s.keyValid = true) (hn : s.inLen.toNat ≤ s.cfg.nBuf) :
    firstError (precheckCipher s ++ cs) = firstError cs := by
  rw [firstError_precheckCipher_append, if_neg (by simp [hk]), if_neg (by omega)]

theorem cipher_failsWith (hi : i.isData = true) (hx : exec i s = .next (runData i (precheckCipher s ++ cs) out s))
    (hk : s.keyValid = true) (hn : s.inLen.toNat ≤ s.cfg.nBuf) {e : Err} (hcs : firstError cs = some e) : FailsWith i e s :=
  failsWith_of_firstError hi hx ((firstError_of_precheckCipher_passes hk hn).trans hcs)

theorem cipher_succeedsWith (hp : s.cfg.Legal) (hx : exec i s = .next (runData i (precheckCipher s ++ cs) out s))
    (hk : s.keyValid = true) (hn : s.inLen.toNat ≤ s.cfg.nBuf) (hcs : firstError cs = none)
    (hl : out.length ≤ s.cfg.nOut) : SucceedsWith i out s :=
  succeedsWith_of_firstError hx ((firstError_of_precheckCipher_passes hk hn).trans hcs) (hl.trans_lt (nOut_lt_of_legal hp))

end CipherCommand

/-! The outputs fit OUTBUF (R223, R252). -/

theorem length_pad_inputBytes_le (s : State) (hp : s.cfg.Legal) (hn : s.inLen.toNat ≤ s.cfg.nBuf) :
    (pad (inputBytes s)).length ≤ s.cfg.nOut :=
  length_pad_le_nOut hp ((length_inputBytes s).trans_le hn)

theorem inLen_le_nOut {s : State} (hn : s.inLen.toNat ≤ s.cfg.nBuf) : s.inLen.toNat ≤ s.cfg.nOut :=
  hn.trans (Nat.le_add_right ..)

/-- The joined decrypted blocks, before the padding is removed, are as long as the input (R241). -/
theorem length_ecbDecBlocks (S : Nat → Word) (r : Nat) {c : List Byte} (h : c.length % 16 = 0) :
    ((blocks c).flatMap (decBlock S r)).length = c.length := by
  rw [List.length_flatMap]
  simp only [decBlock_length, List.map_const', List.sum_replicate, blocks_length, smul_eq_mul]
  omega

/-- As `length_ecbDecBlocks`, for CBC (R243). -/
theorem length_cbcDecBlocks (S : Nat → Word) (r : Nat) {c iv : List Byte} (hiv : iv.length = 16) (h : c.length % 16 = 0) :
    (cbcDecBlocks S r iv (blocks c)).length = c.length := by
  rw [cbcDecBlocks_length S r _ hiv fun _ => length_of_mem_blocks, blocks_length]
  omega

/-- Settles O33. -/
theorem ecbCommandsSucceed : Obligations.EcbCommandsSucceed := by
  intro s hp
  have henc := exec_encEcb s
  have hdec := exec_decEcb s
  have hlen := firstError_badInputLength s
  refine ⟨fun hk => ⟨cipher_failsWith_noKey rfl henc hk, cipher_failsWith_noKey rfl hdec hk⟩,
    fun hk hn => ⟨cipher_failsWith_lengthRange rfl henc hk hn, cipher_failsWith_lengthRange rfl hdec hk hn⟩,
    fun hk hn => ⟨?_, fun hbad => ?_, fun h0 h16 => ?_⟩⟩
  · exact cipher_succeedsWith hp henc hk hn rfl ((length_ecbEnc ..).trans_le (length_pad_inputBytes_le s hp hn))
  · exact cipher_failsWith rfl hdec hk hn (by rw [hlen, if_pos hbad])
  · have hin := length_inputBytes s
    have hout := (ecbDec_length (schedWord s) (ksRoundsOp s) (c := inputBytes s) (by omega)).1
    exact cipher_succeedsWith hp hdec hk hn (by rw [hlen, if_neg (by omega)])
      (hout.trans (hin.trans_le (inLen_le_nOut hn)))

/-- Settles O34: the IV check precedes that of the length. -/
theorem cbcCommandsSucceed : Obligations.CbcCommandsSucceed := by
  intro s hp
  have henc := exec_encCbc s
  have hdec := exec_decCbc s
  have hiv := firstError_badIvLength_cons s
  have hlen := firstError_badInputLength s
  refine ⟨fun hk => ⟨cipher_failsWith_noKey rfl henc hk, cipher_failsWith_noKey rfl hdec hk⟩,
    fun hk hn => ⟨cipher_failsWith_lengthRange rfl henc hk hn, cipher_failsWith_lengthRange rfl hdec hk hn⟩,
    fun hk hn h => ?_, fun hk hn h => ⟨?_, fun hbad => ?_, fun h0 h16 => ?_⟩⟩
  · exact ⟨cipher_failsWith rfl henc hk hn (by rw [hiv, if_pos h]), cipher_failsWith rfl hdec hk hn (by rw [hiv, if_pos h])⟩
  · exact cipher_succeedsWith hp henc hk hn (by rw [hiv, if_neg (by omega)]; rfl)
      ((length_cbcEnc ..).trans_le (length_pad_inputBytes_le s hp hn))
  · exact cipher_failsWith rfl hdec hk hn (by rw [hiv, if_neg (by omega), hlen, if_pos hbad])
  · have hin := length_inputBytes s
    have hout := (cbcDec_length (schedWord s) (ksRoundsOp s) (c := inputBytes s) (length_ivBytes s) (by omega)).1
    exact cipher_succeedsWith hp hdec hk hn (by rw [hiv, if_neg (by omega), hlen, if_neg (by omega)])
      (hout.trans (hin.trans_le (inLen_le_nOut hn)))

/-! The output lengths (R252). -/

theorem outLen_of_succeedsWith {i : Instr} {v : List Byte} {s : State} (h : SucceedsWith i v s) :
    ∃ t, exec i s = .next t ∧ t.errCode = 0 ∧ t.outLen.toNat = v.length := by
  obtain ⟨t, hx, ⟨_, _, herr, _⟩, ⟨hlen, _⟩, _⟩ := h
  exact ⟨t, hx, herr, hlen⟩

theorem length_unpad_of_getLast? {q : List Byte} {v : Byte} (h : q.getLast? = some v) :
    (unpad q).length = if 1 ≤ v.toNat ∧ v.toNat ≤ 16 then q.length - v.toNat else q.length := by
  rw [unpad_of_getLast? h, apply_ite List.length, List.length_take_of_le (Nat.sub_le ..)]

/-- Settles O39: an encryption's output is as long as the padded input, a decryption's is the remover's result on the decrypted
blocks. -/
theorem modeOutputLengths : Obligations.ModeOutputLengths := by
  intro s hp hk hn
  have hin := length_inputBytes s
  obtain ⟨_, _, hecb⟩ := ecbCommandsSucceed s hp
  obtain ⟨_, _, _, hcbc⟩ := cbcCommandsSucceed s hp
  obtain ⟨hencEcb, _, hdecEcb⟩ := hecb hk hn
  refine ⟨fun i hi => ?_, fun h0 h16 i q hiq => ?_⟩
  · obtain ⟨v, hv, hl⟩ : ∃ v, SucceedsWith i v s ∧ v.length = (pad (inputBytes s)).length := by
      rcases hi with rfl | ⟨rfl, hiv⟩
      · exact ⟨_, hencEcb, length_ecbEnc ..⟩
      · exact ⟨_, (hcbc hk hn hiv).1, length_cbcEnc ..⟩
    obtain ⟨t, hx, herr, hlen⟩ := outLen_of_succeedsWith hv
    have hpad := length_pad (inputBytes s)
    have hfits := length_pad_inputBytes_le s hp hn
    unfold padCount at hpad
    exact ⟨t, hx, herr, by omega, by omega, by omega⟩
  · obtain ⟨hs, hq⟩ : SucceedsWith i (unpad q) s ∧ q.length = s.inLen.toNat := by
      rcases hiq with ⟨rfl, rfl⟩ | ⟨rfl, hiv, rfl⟩
      · exact ⟨hdecEcb h0 h16, (length_ecbDecBlocks _ _ (by omega)).trans hin⟩
      · obtain ⟨_, _, hdecCbc⟩ := hcbc hk hn hiv
        exact ⟨hdecCbc h0 h16, (length_cbcDecBlocks _ _ (length_ivBytes s) (by omega)).trans hin⟩
    obtain ⟨t, hx, herr, hlen⟩ := outLen_of_succeedsWith hs
    obtain ⟨hle, hge⟩ := unpad_length q
    refine ⟨t, hx, herr, by omega, by omega, fun v hv => ?_⟩
    rw [hlen, length_unpad_of_getLast? hv, hq]

end Sys2Proof.Machine
end

section
/-! The life of a command: its accept, the engine's turn that runs it, and its completion (45_command_control.md R270 to R279;
60_exceptions.md R301, R304). -/

namespace Sys2Proof.Machine

/-! Completion. -/

theorem errCodeOf_toNat_le (e : Err) : (errCodeOf e).toNat ≤ 9 := by cases e <;> decide

/-- Every command ends in a completion, of a state that has its inputs unchanged (R276, R301). -/
theorem exec_ends (i : Instr) (s : State) :
    ∃ code u, exec i s = .next (endCommand code u) ∧ code.toNat ≤ 9 ∧ InputsKept s u := by
  have hkept : InputsKept s s := by simp [InputsKept]
  rcases exec_cases i s with ⟨_, code, hc, e⟩ | ⟨_, _, e⟩ | ⟨_, out, _, e⟩ | ⟨_, err, e⟩
  · exact ⟨code, s, e, hc, hkept⟩
  · exact ⟨0, commitSchedule _ s, e, by decide, hkept⟩
  · exact ⟨0, writeOutput out s, e, by decide, hkept⟩
  · exact ⟨errCodeOf err, forgetOutput s, e, errCodeOf_toNat_le err, hkept⟩

/-- Settles O40. -/
theorem everyCommandCompletes : Obligations.EveryCommandCompletes := by
  intro i s
  obtain ⟨code, u, he, hc, hkept⟩ := exec_ends i s
  obtain ⟨hend, _⟩ := endCommand_frame code u
  exact ⟨_, code, he, hend, hc, hkept⟩

/-- Settles O28: NOP is a completion with code 0 and nothing else. -/
theorem nopOnlyCompletes : Obligations.NopOnlyCompletes := by
  refine ⟨by decide, fun s => ?_⟩
  obtain ⟨hend, hframe⟩ := endCommand_frame 0 s
  exact ⟨complete s, rfl, hend, Bool.and_true s.ie, hframe⟩

/-- An illegal command is no data command, so it completes with ILLEGAL_CMD and keeps the output too (R279). -/
theorem exec_illegal {i : Instr} (hi : i.isCommand = false) (s : State) : exec i s = .next (endCommand 0x1 s) := by
  cases i
  case illegalAB | illegalCF | illegalRsv => rfl
  all_goals cases hi

theorem illegal_completes {i : Instr} (hi : i.isCommand = false) (s : State) :
    ∃ t, exec i s = .next t ∧ Ended 0x1 t ∧ InputsKept s t ∧ ScheduleKept s t ∧ OutputKept s t :=
  ⟨_, exec_illegal hi s, endCommand_frame 0x1 s⟩

/-- The words with a bit of RSV set and the words 0xA to 0xF are none of the ten commands (R112, R113). -/
theorem decode_isCommand_eq_false {w : Word} (h : w.extractLsb' 4 28 ≠ 0 ∨ (0xA ≤ w.toNat ∧ w.toNat ≤ 0xF)) :
    (decode w).isCommand = false := by
  have hw : ¬ w.toNat < 10 := by
    rcases h with hrsv | ⟨hlow, _⟩
    · have h16 : ¬ w.toNat < 16 := mt rsvField_eq_zero_iff.mpr hrsv
      omega
    · omega
  exact Bool.eq_false_iff.mpr (mt (decode_isCommand_iff w).mp hw)

/-- Settles O29. -/
theorem illegalWordsCompleteWithIllegalCmd : Obligations.IllegalWordsCompleteWithIllegalCmd := by
  refine ⟨fun w s h => ?_, fun _ => illegal_completes rfl, fun _ => illegal_completes rfl, fun _ _ => illegal_completes rfl⟩
  obtain ⟨t, he, hend, hframe⟩ := illegal_completes (decode_isCommand_eq_false h) s
  have hflag : errFlag t = true := by
    obtain ⟨_, _, herr, _⟩ := hend
    rw [errFlag, herr]
    rfl
  exact ⟨t, he, hend, hflag, hframe⟩

/-! The engine's turn. -/

theorem nextTurn_of_wait_busy {s : State} {es : List Event} (h : s.script = .wait :: es) (hb : s.busy = true) :
    nextTurn s = (.engine, s) := by
  rw [nextTurn, h]
  exact if_pos hb

/-- A placed command word is accepted and has the engine's turn next (log 14). -/
theorem step_placeCommand (w : Word) (s : State) : step (placeCommand w s) = exec (decode w) (accept w s) := by
  have hturn : nextTurn (placeCommand w s) = (.engine, accept w s) := nextTurn_of_engine rfl
  exact step_of_latched (l := { word := w, keychk := s.keychk }) hturn rfl

/-- Settles O5: the next event gives the engine its turn, and its turn runs the latched word. -/
theorem stepRunsLatchedCommand : Obligations.StepRunsLatchedCommand := by
  refine ⟨fun s l hp h => step_of_latched (nextTurn_of_nil h) hp, fun s l es hp h => step_of_latched (nextTurn_of_engine h) hp,
    fun s l es hp h hb => step_of_latched (nextTurn_of_wait_busy h hb) hp, fun s w hw => ?_⟩
  rw [State.withFetchWord, Nat.mod_eq_of_lt hw]
  exact step_placeCommand _ s

/-! Accept. -/

theorem hostMove_write_cmd_idle {s : State} (w : Word) (hb : s.busy = false) :
    hostMove (.write 0x008 w) s = .next (accept w s) := by
  have hcmd : writeCmd w s = accept w s := if_neg (by simp [hb])
  exact congrArg Host.Outcome.next hcmd

/-- Settles O9. -/
theorem commandWriteWhileIdleIsAccepted : Obligations.CommandWriteWhileIdleIsAccepted := by
  intro s w hb
  exact ⟨_, hostMove_write_cmd_idle w hb, rfl, rfl, rfl, rfl, by simp [InputsKept], ⟨rfl, rfl, rfl⟩,
    ⟨rfl, fun _ => rfl⟩, rfl, rfl⟩

/-- Settles O8: the write is the accept, and the command, as every command, completes at the engine's turn. -/
theorem writtenCommandCompletes : Obligations.WrittenCommandCompletes := by
  intro s w es hb hs
  have haccept : step s = .next (accept w (setScript (.engine :: es) s)) :=
    (step_of_busMove hs (busTurn_write ..)).trans (hostMove_write_cmd_idle w hb)
  obtain ⟨_, hengine, _⟩ := stepRunsLatchedCommand
  obtain ⟨u, code, he, hend, hcode, hkept⟩ := everyCommandCompletes (decode w) (accept w (setScript es s))
  have hscript : u.script = es := by simp [hkept]
  exact ⟨_, u, code, haccept, rfl, rfl, (hengine _ _ es rfl rfl).trans he, hend, hcode, hscript⟩

end Sys2Proof.Machine
end

section
/-! The host's accesses while a command runs (45_command_control.md R272 to R274). -/

namespace Sys2Proof.Machine

/-- A register stands at its own offset only: the windows begin above the registers (R32). -/
theorem offset_of_locate_register {p : Params} {off o : Nat} {l : Loc} (h : locate p off = l) (ho : offsetOf l = some o)
    (hlt : o < 0x40) : off = o := by
  rcases locate_cases p off with ⟨_, hreg⟩ | hw
  · rw [h, ho] at hreg
    exact (Option.some.inj hreg).symm
  · rw [hw, locateWindow] at h
    split_ifs at h <;> subst h <;> cases ho <;> omega

theorem locate_eq_status {p : Params} {off : Nat} (h : locate p off = .status) : off = 0x004 :=
  offset_of_locate_register h rfl (by decide)

theorem locate_eq_cmd {p : Params} {off : Nat} (h : locate p off = .cmd) : off = 0x008 :=
  offset_of_locate_register h rfl (by decide)

/-- Settles O10: writes to CTRL and STATUS are the same busy or idle. -/
theorem writesWhileBusyAreDropped : Obligations.WritesWhileBusyAreDropped := by
  intro s off v hb ha
  obtain ⟨hctrl, hreset, _⟩ := controlRegister
  refine ⟨fun h0 h4 => ?_, ?_, ?_, ?_⟩
  · rw [hostMove_write v s ha, writeLoc_busy hb (mt locate_eq_ctrl h0) (mt locate_eq_status h4)]
    rfl
  · rintro rfl
    exact hctrl s v
  · rintro rfl
    exact hreset s v
  · rintro rfl
    exact statusWriteClearsOnes s v

/-- Settles O23: a running command has DONE and ERR_CODE clear by the invariant, and the other reads are those of every state. -/
theorem busyReads : Obligations.BusyReads := by
  rintro s ⟨hp, _, hclear, _⟩ hb
  obtain ⟨hdone, herr⟩ := hclear hb
  obtain ⟨_, _, hctrl⟩ := controlRegister
  obtain ⟨_, hinw⟩ := inputWindowWritesInbuf
  obtain ⟨_, hkeyw⟩ := keyWindowWritesKeybuf
  obtain ⟨t, ht, hbusy, hdone', hvalid, herr', hbusyWr, _⟩ := statusReadShowsFlags s
  refine ⟨⟨t, ht, hbusy.trans hb, hdone'.trans hdone, ?_, hbusyWr, hvalid⟩, hctrl s,
    read_returns (l := .errCode) rfl rfl ?_, read_returns (l := .rounds) rfl rfl rfl,
    read_returns (l := .keyLen) rfl rfl rfl, read_returns (l := .ivLen) rfl rfl rfl,
    read_returns (l := .inLen) rfl rfl rfl, read_returns (l := .iv0) rfl rfl rfl, read_returns (l := .iv1) rfl rfl rfl,
    read_returns (l := .iv2) rfl rfl rfl, read_returns (l := .iv3) rfl rfl rfl, fun k m b => hinw s k m b hp,
    fun k => hkeyw s k hp, read_returns (l := .cmd) rfl rfl rfl, fun off ha hl => read_returns hl ha rfl⟩
  · exact Bool.eq_false_iff.mpr fun h => herr'.mp h herr
  · rw [readLoc, herr]
    rfl

end Sys2Proof.Machine
end

section
/-! What stays over a step: DONE until it is acknowledged, the output until a data command or a reset
(45_command_control.md R280; 10_state.md R42, R47). -/

namespace Sys2Proof.Machine

/-- A host move that is a reset, from either source, comes from its event in the script (R330). -/
theorem script_of_hostReset {s u : State} {m : HostMove} (hn : nextTurn s = (.host m, u)) (hm : ¬ m.NoReset) :
    ∃ es, s.script = .host .reset :: es ∨
      ∃ v, s.script = .host (.write (s.cfg.base + 0x000) v) :: es ∧ v.getLsbD 2 = true := by
  cases m with
  | write off v =>
    obtain ⟨rfl, hv⟩ : off = 0 ∧ v.getLsbD 2 = true := by simpa [HostMove.NoReset] using hm
    obtain ⟨es, hs⟩ := script_of_write hn
    exact ⟨es, .inr ⟨v, hs, hv⟩⟩
  | read off => exact absurd trivial hm
  | reset =>
    obtain ⟨es, hs⟩ := script_of_reset hn
    exact ⟨es, .inl hs⟩

/-- A write to CTRL that is no reset has SRST = 0. -/
theorem srst_eq_false {p : Params} {off : Nat} {v : Word} (hm : (HostMove.write off v).NoReset)
    (hl : locate p off = .ctrl) : v.getLsbD 2 = false :=
  hm (locate_eq_ctrl hl)

/-! DONE. -/

theorem writeIdle_done (l : Loc) (v : Word) (s : State) : (writeIdle l v s).done = s.done := by
  cases l <;> rfl

/-- A write that is no reset keeps DONE but for an acknowledgement and the accept of a command (R280). -/
theorem writeLoc_done {l : Loc} {v : Word} {s : State} (hv : l = .ctrl → v.getLsbD 2 = false) (hd : s.done = true) :
    (writeLoc l v s).done = true ∨ (l = .status ∧ v.getLsbD 1 = true) ∨ (l = .cmd ∧ s.busy = false) := by
  rcases writeLoc_cases l v s with ⟨hl, e⟩ | ⟨hl, e⟩ | ⟨hl, e⟩ | ⟨_, e⟩ | ⟨_, e⟩ <;> rw [e]
  · rw [writeCtrl_noReset (hv hl)]
    exact .inl hd
  · rw [writeStatus_eq]
    cases h1 : v.getLsbD 1 with
    | true => exact .inr (.inl ⟨hl, rfl⟩)
    | false => exact .inl (by simpa using hd)
  · cases hb : s.busy with
    | true => exact .inl (by simpa [writeCmd, hb] using hd)
    | false => exact .inr (.inr ⟨hl, rfl⟩)
  · exact .inl hd
  · exact .inl ((writeIdle_done l v s).trans hd)

theorem hostMove_done {m : HostMove} {s t : State} (hm : m.NoReset) (hd : s.done = true) (h : hostMove m s = .next t) :
    t.done = true ∨ (∃ v, m = .write 0x004 v ∧ v.getLsbD 1 = true) ∨ (∃ w, m = .write 0x008 w ∧ s.busy = false) := by
  rcases hostMove_cases h with ⟨off, v, rfl, _, rfl⟩ | ⟨off, rfl, _, rfl⟩ | ⟨rfl, _⟩
  · rcases writeLoc_done (srst_eq_false hm) hd with hdone | ⟨hl, hv⟩ | ⟨hl, hb⟩
    · exact .inl hdone
    · exact .inr (.inl ⟨v, by rw [locate_eq_status hl], hv⟩)
    · exact .inr (.inr ⟨v, by rw [locate_eq_cmd hl], hb⟩)
  · exact .inl hd
  · exact hm.elim

/-- Settles O27: a host move keeps DONE but for the three writes and the reset, a completion sets it, an idle turn keeps it. -/
theorem doneStaysUntilAcknowledged : Obligations.DoneStaysUntilAcknowledged := by
  intro s t h hd
  obtain ⟨es, ⟨m, hn, hm⟩ | ⟨l, _, _, he⟩ | ⟨_, _, rfl⟩⟩ := step_cases h
  · by_cases hr : m.NoReset
    · rcases hostMove_done (s := setScript es s) hr hd hm with hdone | ⟨v, rfl, hv⟩ | ⟨w, rfl, hb⟩
      · exact .inl hdone
      · obtain ⟨es', hs⟩ := script_of_write hn
        exact .inr ⟨es', .inl ⟨v, hs, hv⟩⟩
      · obtain ⟨es', hs⟩ := script_of_write hn
        exact .inr ⟨es', .inr (.inl ⟨w, hs, hb⟩)⟩
    · obtain ⟨es', hs | hs⟩ := script_of_hostReset hn hr
      · exact .inr ⟨es', .inr (.inr (.inr hs))⟩
      · exact .inr ⟨es', .inr (.inr (.inl hs))⟩
  · obtain ⟨_, _, e, _⟩ := exec_ends (decode l.word) (setScript es s)
    rw [e] at he
    cases he
    exact .inl rfl
  · exact .inl hd

/-! The output. -/

theorem writeIdle_outputKept (l : Loc) (v : Word) (s : State) : OutputKept s (writeIdle l v s) := by
  cases l <;> exact ⟨rfl, fun _ => rfl⟩

theorem writeCmd_outputKept (v : Word) (s : State) : OutputKept s (writeCmd v s) := by
  unfold writeCmd
  split <;> exact ⟨rfl, fun _ => rfl⟩

/-- A write that is no reset leaves the output: OUT_LEN and OUTBUF are read-only (R42, R47). -/
theorem writeLoc_outputKept {l : Loc} {v : Word} (s : State) (hv : l = .ctrl → v.getLsbD 2 = false) :
    OutputKept s (writeLoc l v s) := by
  rcases writeLoc_cases l v s with ⟨hl, e⟩ | ⟨_, e⟩ | ⟨_, e⟩ | ⟨_, e⟩ | ⟨_, e⟩ <;> rw [e]
  · rw [writeCtrl_noReset (hv hl)]
    exact ⟨rfl, fun _ => rfl⟩
  · rw [writeStatus_eq]
    exact ⟨rfl, fun _ => rfl⟩
  · exact writeCmd_outputKept v s
  · exact ⟨rfl, fun _ => rfl⟩
  · exact writeIdle_outputKept l v s

theorem hostMove_outputKept {m : HostMove} {s t : State} (hm : m.NoReset) (h : hostMove m s = .next t) : OutputKept s t := by
  rcases hostMove_cases h with ⟨off, v, rfl, _, rfl⟩ | ⟨off, rfl, _, rfl⟩ | ⟨rfl, _⟩
  · exact writeLoc_outputKept s (srst_eq_false hm)
  · exact ⟨rfl, fun _ => rfl⟩
  · exact hm.elim

/-- A command leaves the output unless it is a data command (R278, R279, R177). -/
theorem exec_output {i : Instr} {s t : State} (h : exec i s = .next t) :
    OutputKept s t ∨ (i.isData = true ∧ t.done = true) := by
  rcases exec_cases i s with ⟨_, _, _, e⟩ | ⟨_, _, e⟩ | ⟨hi, _, _, e⟩ | ⟨hi, _, e⟩ <;> rw [e] at h <;> cases h
  · exact .inl ⟨rfl, fun _ => rfl⟩
  · exact .inl ⟨rfl, fun _ => rfl⟩
  · exact .inr ⟨hi, rfl⟩
  · exact .inr ⟨hi, rfl⟩

/-- Settles O31. -/
theorem outputStaysUntilDataCommandOrReset : Obligations.OutputStaysUntilDataCommandOrReset := by
  intro s t h
  obtain ⟨es, ⟨m, hn, hm⟩ | ⟨l, _, hp, he⟩ | ⟨_, _, rfl⟩⟩ := step_cases h
  · by_cases hr : m.NoReset
    · exact .inl (hostMove_outputKept (s := setScript es s) hr hm)
    · exact .inr (.inr (script_of_hostReset hn hr))
  · rcases exec_output he with hk | hres
    · exact .inl hk
    · exact .inr (.inl ⟨l, hp, hres⟩)
  · exact .inl ⟨rfl, fun _ => rfl⟩

end Sys2Proof.Machine
end

section
/-! What the host can change while a command runs does not reach the command's result (45_command_control.md R273, R281;
20_memory.md R92). -/

namespace Sys2Proof.Machine

/-- The state with all that a host move, short of a reset, can change while a command runs taken from another state: the bits of
CTRL, DONE, BUSY_WR, the word on the bus and the model's own draw counter (R273, log 6). -/
def State.withHostView (s v : State) : State :=
  { s with ie := v.ie, keychk := v.keychk, done := v.done, busyWr := v.busyWr, rdata := v.rdata, draws := v.draws }

/-! The host's moves while busy. -/

theorem writeLoc_busy_hostView {l : Loc} {v : Word} {s : State} (hb : s.busy = true) (hv : l = .ctrl → v.getLsbD 2 = false) :
    writeLoc l v s = s.withHostView (writeLoc l v s) := by
  rcases writeLoc_cases l v s with ⟨hl, e⟩ | ⟨_, e⟩ | ⟨_, e⟩ | ⟨_, e⟩ | ⟨hidle, _⟩
  · rw [e, writeCtrl_noReset (hv hl)]
    rfl
  · rw [e, writeStatus_eq]
    rfl
  · rw [e, writeCmd, if_pos hb]
    rfl
  · rw [e]
    rfl
  · exact absurd (hidle.symm.trans hb) Bool.false_ne_true

theorem hostMove_busy {m : HostMove} {s t : State} (hb : s.busy = true) (hm : m.NoReset) (h : hostMove m s = .next t) :
    t = s.withHostView t := by
  rcases hostMove_cases h with ⟨off, v, rfl, _, rfl⟩ | ⟨off, rfl, _, rfl⟩ | ⟨rfl, _⟩
  · exact writeLoc_busy_hostView hb (srst_eq_false hm)
  · rfl
  · exact hm.elim

/-- A step at a host event that is no reset, while busy. -/
theorem step_hostMove_busy {s t : State} {m : BusMove} {es : List Event} (hb : s.busy = true)
    (hs : s.script = .host m :: es) (hm : m.NoReset s.cfg) (h : step s = .next t) :
    t = setScript es (s.withHostView t) := by
  cases ht : busTurn s.cfg m with
  | engine => exact absurd ht busTurn_elsewhere.1
  | elsewhere =>
    rw [step_of_elsewhere hs ht] at h
    cases h
  | host a =>
    rw [step_of_busMove hs ht] at h
    exact hostMove_busy (s := setScript es s) hb (hm a ht) h

/-- A run that goes on has a first step and the rest of the run. -/
theorem step_of_run {M : Host.Core} {k : Nat} {s u : M.State} (h : M.run (k + 1) s = .next u) :
    ∃ t, M.step s = .next t ∧ M.run k t = .next u := by
  rw [Host.Core.run] at h
  split at h
  next t ht => exact ⟨t, ht, h⟩
  next => cases h
  next => cases h

/-- A run of host moves without a reset, while busy. -/
theorem run_hostMoves_busy {ms : List BusMove} {es : List Event} {s t : State} (hb : s.busy = true)
    (hs : s.script = ms.map Event.host ++ es) (hms : ∀ m ∈ ms, m.NoReset s.cfg)
    (h : Sys2Proof.core.run ms.length s = .next t) : t = setScript es (s.withHostView t) := by
  induction ms generalizing s with
  | nil =>
    cases h
    subst hs
    rfl
  | cons m ms ih =>
    rw [List.forall_mem_cons] at hms
    obtain ⟨hm, hrest⟩ := hms
    obtain ⟨u, hu, hrun⟩ := step_of_run h
    have hview := step_hostMove_busy hb hs hm hu
    rw [hview] at hrun
    exact ih (s := setScript (ms.map Event.host ++ es) (s.withHostView u)) hb rfl hrest hrun

/-! The command's result. -/

/-- Two completions with the same result: ERR_CODE, the output and the held schedule. -/
abbrev SameResult (u u' : State) : Prop :=
  u'.errCode = u.errCode ∧ u'.outLen = u.outLen ∧ u'.outbuf = u.outbuf ∧
  u'.sched = u.sched ∧ u'.ksRounds = u.ksRounds ∧ u'.keyValid = u.keyValid

section HostView

variable (s v : State) (es : List Event)

theorem raiseErr_hostView (i : Instr) (e : Err) :
    SameResult (raiseErr i e s) (raiseErr i e (setScript es (s.withHostView v))) := by
  unfold raiseErr
  split <;> exact ⟨rfl, rfl, rfl, rfl, rfl, rfl⟩

theorem runData_hostView (i : Instr) (cs : List (Bool × Err)) (out : List Byte) :
    SameResult (runData i cs out s) (runData i cs out (setScript es (s.withHostView v))) := by
  unfold runData
  split
  · exact raiseErr_hostView s v es i _
  · exact ⟨rfl, rfl, rfl, rfl, rfl, rfl⟩

variable {s}

theorem keychkOp_of_latched {l : Latch} (hp : s.pending = some l) : keychkOp s = l.keychk := by
  rw [keychkOp, hp]

/-- The checks of KEY_EXPAND take CTRL.KEYCHK as the latch holds it (R281). -/
theorem firstError_keyExpandChecks_hostView {l : Latch} (hp : s.pending = some l) :
    firstError (keyExpandChecks (setScript es (s.withHostView v))) = firstError (keyExpandChecks s) := by
  have hk : keychkOp (setScript es (s.withHostView v)) = keychkOp s :=
    (keychkOp_of_latched (s := setScript es (s.withHostView v)) hp).trans (keychkOp_of_latched hp).symm
  rw [firstError_keyExpandChecks, firstError_keyExpandChecks, hk]
  rfl

theorem exec_keyExpand_hostView {l : Latch} (hp : s.pending = some l) :
    ∃ u u', exec .keyExpand s = .next u ∧ exec .keyExpand (setScript es (s.withHostView v)) = .next u' ∧ SameResult u u' := by
  have hchecks := firstError_keyExpandChecks_hostView v es hp
  cases hc : firstError (keyExpandChecks s) with
  | none => exact ⟨_, _, exec_keyExpand_of_no_error hc, exec_keyExpand_of_no_error (hchecks.trans hc),
      rfl, rfl, rfl, rfl, rfl, rfl⟩
  | some e => exact ⟨_, _, exec_keyExpand_of_error hc, exec_keyExpand_of_error (hchecks.trans hc),
      rfl, rfl, rfl, rfl, rfl, rfl⟩

/-- A latched command reads nothing that the host can change while it runs (R281). -/
theorem exec_hostView {l : Latch} (hp : s.pending = some l) (i : Instr) :
    ∃ u u', exec i s = .next u ∧ exec i (setScript es (s.withHostView v)) = .next u' ∧ SameResult u u' := by
  cases i
  case keyExpand => exact exec_keyExpand_hostView v es hp
  case nop => exact ⟨_, _, rfl, rfl, rfl, rfl, rfl, rfl, rfl, rfl⟩
  case illegalAB | illegalCF | illegalRsv => exact ⟨_, _, rfl, rfl, raiseErr_hostView s v es _ _⟩
  all_goals exact ⟨_, _, rfl, rfl, runData_hostView s v es _ _ _⟩

end HostView

/-- Settles O59: the moves change the host's view only, and the command does not look at it. -/
theorem hostMovesWhileBusyDoNotChangeResult : Obligations.HostMovesWhileBusyDoNotChangeResult := by
  intro ms es s t l i hb hp hs hms h
  rw [run_hostMoves_busy hb hs hms h]
  exact exec_hostView t es hp i

end Sys2Proof.Machine
end

section
/-! Exceptions: the interrupt level and the priority of the errors (60_exceptions.md R301 to R306). -/

namespace Sys2Proof.Machine

/-! The interrupt level. -/

theorem irq_eq_ie_of_done {s : State} (h : s.done = true) : irq s = s.ie := by
  rw [irq, h, Bool.and_true]

theorem irq_eq_false_of_done {s : State} (h : s.done = false) : irq s = false := by
  rw [irq, h, Bool.and_false]

/-- Settles O26: IE is written by CTRL alone, DONE is cleared by an acknowledgement and an accept, and every command sets it. -/
theorem interruptIsLevelOfDone : Obligations.InterruptIsLevelOfDone := by
  obtain ⟨hctrl, _⟩ := controlRegister
  refine ⟨fun _ => rfl, fun s => ⟨_, hctrl s 1 (by decide), Bool.true_and s.done, rfl⟩,
    fun s => ⟨_, hctrl s 0 (by decide), Bool.false_and s.done, rfl⟩, fun s v hv => ?_, fun s w hb => ?_, fun i s => ?_⟩
  · have hdone : (s.done && !v.getLsbD 1) = false := by rw [hv, Bool.not_true, Bool.and_false]
    exact ⟨_, statusWriteClearsOnes s v, irq_eq_false_of_done hdone, hdone, rfl⟩
  · exact ⟨_, hostMove_write_cmd_idle w hb, irq_eq_false_of_done rfl, rfl, rfl⟩
  · obtain ⟨t, _, hx, ⟨_, hdone, _⟩, _, _, hie, _⟩ := everyCommandCompletes i s
    exact ⟨t, hx, (irq_eq_ie_of_done hdone).trans hie, hdone⟩

/-! The priority of the errors (R303). -/

/-- The code a command ends with, by the first error its checks find (R276, R301). -/
def endCode : Option Err → BitVec 4
  | none => 0
  | some e => errCodeOf e

@[simp] theorem endCode_none : endCode none = 0 := rfl

@[simp] theorem endCode_some (e : Err) : endCode (some e) = errCodeOf e := rfl

theorem runData_errCode (i : Instr) (cs : List (Bool × Err)) (out : List Byte) (s : State) :
    (runData i cs out s).errCode = endCode (firstError cs) := by
  rcases runData_cases i cs out s with ⟨hn, e⟩ | ⟨err, hf, e⟩
  · rw [e, hn, complete_errCode, endCode_none]
  · rw [e, hf, raiseErr_errCode, endCode_some]

theorem exec_keyExpand_errCode (s : State) :
    ∃ t, exec .keyExpand s = .next t ∧ t.errCode = endCode (firstError (keyExpandChecks s)) := by
  cases h : firstError (keyExpandChecks s) with
  | none => exact ⟨_, exec_keyExpand_of_no_error h, rfl⟩
  | some e => exact ⟨_, exec_keyExpand_of_error h, rfl⟩

/-- The rows of the priority table that concern the data commands, each with the commands it is checked for (R302, R303). -/
def dataErrorTable (i : Instr) (s : State) : List (Bool × Err) :=
  [(i.isCipher && noKey s, .noKey),
   (lengthRange s, .lengthRange),
   (decide (i = .encCbc ∨ i = .decCbc) && badIvLength s, .invalidIvLength),
   (decide (i = .decEcb ∨ i = .decCbc ∨ i = .unpad) && badInputLength s, .invalidInputLength),
   (decide (i = .encBlock ∨ i = .decBlock) && badBlockSize s, .invalidBlockSize)]

/-- The checks of each data command are the rows of the table that are for it, in the order of the table. -/
theorem exec_data_by_table {i : Instr} (hi : i.isData = true) (s : State) :
    ∃ out, exec i s = .next (runData i (dataErrorTable i s) out s) := by
  cases i
  case nop | keyExpand | illegalAB | illegalCF | illegalRsv => cases hi
  all_goals exact ⟨_, rfl⟩

/-- The table by the registers. -/
theorem firstError_dataErrorTable (i : Instr) (s : State) :
    firstError (dataErrorTable i s) =
      if i.isCipher = true ∧ s.keyValid = false then some .noKey
      else if s.cfg.nBuf < s.inLen.toNat then some .lengthRange
      else if (i = .encCbc ∨ i = .decCbc) ∧ s.ivLen.toNat ≠ 16 then some .invalidIvLength
      else if (i = .decEcb ∨ i = .decCbc ∨ i = .unpad) ∧ (s.inLen.toNat = 0 ∨ s.inLen.toNat % 16 ≠ 0) then
        some .invalidInputLength
      else if (i = .encBlock ∨ i = .decBlock) ∧ s.inLen.toNat ≠ 16 then some .invalidBlockSize
      else none := by
  simp only [dataErrorTable, firstError, Bool.and_eq_true, decide_eq_true_iff, noKey_iff, lengthRange_iff, badIvLength_iff,
    badInputLength_iff, badBlockSize_iff]

/-- Settles O37: an illegal word is no command, and every other command ends with the code of the first row of its table. -/
theorem errorsInPriority : Obligations.ErrorsInPriority := by
  refine fun s => ⟨fun w hw => ?_, ?_, fun i hi => ?_⟩
  · have hillegal : (decode w).isCommand = false := Bool.eq_false_iff.mpr (mt (decode_isCommand_iff w).mp (by omega))
    exact ⟨_, exec_illegal hillegal s, rfl⟩
  · obtain ⟨t, hx, hcode⟩ := exec_keyExpand_errCode s
    refine ⟨t, hx, hcode.trans ?_⟩
    simp only [firstError_keyExpandChecks, apply_ite endCode, endCode_some, endCode_none]
  · obtain ⟨out, hx⟩ := exec_data_by_table hi s
    refine ⟨_, hx, (runData_errCode ..).trans ?_⟩
    simp only [firstError_dataErrorTable, apply_ite endCode, endCode_some, endCode_none]

end Sys2Proof.Machine
end

section
/-! Reset from either source, and the state it leaves (70_reset_and_hazards.md R330 to R333). -/

namespace Sys2Proof.Machine

theorem errFlag_eq_false_of_errCode {s : State} (h : s.errCode = 0) : errFlag s = false := by
  rw [errFlag, h]
  rfl

/-- Settles O24: the write to CTRL is the reset input's move, and that leaves `resetNow`, whose fields the model's laws give. -/
theorem bothResetsGiveResetValues : Obligations.BothResetsGiveResetValues := by
  obtain ⟨_, hsrst, _⟩ := controlRegister
  refine fun s v hv => ⟨resetNow s, rfl, hsrst s v hv, ?_⟩
  have herr : errFlag (resetNow s) = false := errFlag_eq_false_of_errCode (resetNow_errCode s)
  have hirq : irq (resetNow s) = false := irq_eq_false_of_done (resetNow_done s)
  simp [herr, hirq]

/-- Settles O25: the reset state is closed, so its fields and the two values derived from them are evaluated. -/
theorem resetStateValues : Obligations.ResetStateValues := by
  unfold Obligations.ResetStateValues
  decide

end Sys2Proof.Machine
end
